-- ==== Sys2Proof/Word.lean ====
section
/-! DEFINITION. The word types of the block: buffer bytes, host-interface words, the 128-bit datapath. -/

namespace Sys2Proof

/-- One buffer byte register `BUF[i]` (10_state R23). -/
abbrev Byte := BitVec 8

/-- A 32-bit register, command word or bus datum (10_state R21, R22; 30_encoding R70). -/
abbrev Word := BitVec 32

/-- A value of the 128-bit datapath: EMAT rows, MASK and the internal value (00_scope R6). -/
abbrev Wide := BitVec 128

end Sys2Proof
end

