-- ==== Sys2Proof/Machine/Bits.lean ====
section
/-! DEFINITION. The bit-field helper of the encodings and the register words. -/

namespace Sys2Proof

/-- A word of `n` bits that holds the field `v` from bit `k` up and 0 elsewhere. -/
def place {w : Nat} (n : Nat) (v : BitVec w) (k : Nat) : BitVec n := v.setWidth n <<< k

/-- A one-bit field. -/
def placeBit (n : Nat) (b : Bool) (k : Nat) : BitVec n := place n (BitVec.ofBool b) k

end Sys2Proof
end

