-- ==== Sys2Proof/Syntax.lean ====
section
/-! DEFINITION. The instructions: one constructor per row of spec/opcode_table.json, four commands the codec unit executes
and six transactions the host issues. -/

namespace Sys2Proof

/-- The commands (30_encoding R71) and the host transactions (30_encoding R76). Sizes and lengths are numbers whose field
bounds `Instr.wf` checks; a buffer index has no value outside the register file (10_state R22). -/
inductive Instr where
  /-- CONFIGURE `N`, `NA` (41_matrix_builder R119). -/
  | configure (n : Nat) (na : Bool)
  /-- ENCODE `LEN` (42_encoder R134). -/
  | encode (len : Nat)
  /-- DECODE `LEN` (43_decoder R140). -/
  | decode (len : Nat)
  /-- PARITY `LEN` (40_bit_parity R103). -/
  | parity (len : Nat)
  /-- WRBUF `i`, `WDATA` (44_host_interface R151). -/
  | wrbuf (i : Fin 16) (wdata : Word)
  /-- RDBUF `i` (44_host_interface R152); a read's WDATA is ignored (30_encoding R76; log 10). -/
  | rdbuf (i : Fin 16)
  /-- WRCMD `w` (44_host_interface R153). -/
  | wrcmd (w : Word)
  /-- RDSTATUS (44_host_interface R154). -/
  | rdstatus
  /-- RDRESULT (44_host_interface R155). -/
  | rdresult
  /-- RDCFG (44_host_interface R156). -/
  | rdcfg
deriving DecidableEq, Repr

/-- The two encoded forms (30_encoding R75): a 32-bit command word, or a 38-bit host transaction. -/
inductive Encoded where
  | command (w : Word)
  | transaction (t : BitVec 38)
deriving DecidableEq, Repr

/-- Why an encoded form stands for no instruction. -/
inductive DecodeError where
  /-- The command word matches no format (30_encoding R74). -/
  | illegalCommand
  /-- The transaction is none of the six of 30_encoding R76; `read` when its `WE` is 0 (44_host_interface R159). -/
  | illegalAccess (read : Bool)
deriving DecidableEq, Repr

end Sys2Proof
end

