-- ==== Sys2Proof/WellFormed.lean ====
section
/-! DEFINITION. Which instructions can be encoded: every operand fits its field (30_encoding R70, R72, R77). -/

namespace Sys2Proof

/-- The operand fits its field: `N` in 7 bits, `LEN` in 5 bits. A buffer index and a data word fit by their types. A value
outside a command's LEGAL range is still well formed (30_encoding R72: it "still decodes"). -/
def Instr.wf : Instr → Bool
  | .configure n _ => decide (n ≤ 127)
  | .encode len => decide (len ≤ 31)
  | .decode len => decide (len ≤ 31)
  | .parity len => decide (len ≤ 31)
  | .wrbuf _ _ => true
  | .rdbuf _ => true
  | .wrcmd _ => true
  | .rdstatus => true
  | .rdresult => true
  | .rdcfg => true

end Sys2Proof
end

