-- ==== Sys2Proof/Decode.lean ====
section
/-! DEFINITION. Decoding and encoding of command words (30_encoding R70 to R75) and host transactions (30_encoding R76). -/

namespace Sys2Proof

/-- A row of the opcode table: the word must equal `pattern` under `mask`. -/
structure Row (w : Nat) where
  mask : BitVec w
  pattern : BitVec w
deriving DecidableEq, Repr

/-- The word matches the row (30_encoding R73). -/
def Row.hits {w : Nat} (r : Row w) (x : BitVec w) : Bool := x &&& r.mask == r.pattern

/-! The rows, as 30_encoding R73 and R76 print them. -/

def configureRow : Row 32 := ⟨0xFFFF00FF#32, 0x00000001#32⟩
def encodeRow : Row 32 := ⟨0xFFFFE0FF#32, 0x00000002#32⟩
def decodeRow : Row 32 := ⟨0xFFFFE0FF#32, 0x00000003#32⟩
def parityRow : Row 32 := ⟨0xFFFFE0FF#32, 0x00000004#32⟩

def wrbufRow : Row 38 := ⟨0x3000000000#38, 0x2000000000#38⟩
def rdbufRow : Row 38 := ⟨0x3000000000#38, 0x0000000000#38⟩
def wrcmdRow : Row 38 := ⟨0x3F00000000#38, 0x3000000000#38⟩
def rdstatusRow : Row 38 := ⟨0x3F00000000#38, 0x1100000000#38⟩
def rdresultRow : Row 38 := ⟨0x3F00000000#38, 0x1200000000#38⟩
def rdcfgRow : Row 38 := ⟨0x3F00000000#38, 0x1300000000#38⟩

/-- The four rows of the command word. -/
def commandRows : List (Row 32) := [configureRow, encodeRow, decodeRow, parityRow]

/-- The six rows of the host transaction. -/
def transactionRows : List (Row 38) := [wrbufRow, rdbufRow, wrcmdRow, rdstatusRow, rdresultRow, rdcfgRow]

/-! Fields of the command word (30_encoding R70, R72). -/

/-- `N = word[14:8]`, unsigned. -/
def fieldN (w : Word) : Nat := (w.extractLsb' 8 7).toNat

/-- `NA = word[15]`. -/
def fieldNA (w : Word) : Bool := w.getLsbD 15

/-- `LEN = word[12:8]`, unsigned. -/
def fieldLen (w : Word) : Nat := (w.extractLsb' 8 5).toNat

/-! Fields of the host transaction (30_encoding R76). -/

/-- `WE = T[37]`: the `req_we` port. -/
def fieldWE (t : BitVec 38) : Bool := t.getLsbD 37

/-- `ADDR = T[36:32]`: the `req_addr` port. -/
def fieldAddr (t : BitVec 38) : BitVec 5 := t.extractLsb' 32 5

/-- `WDATA = T[31:0]`: the `req_wdata` port. -/
def fieldWdata (t : BitVec 38) : Word := t.extractLsb' 0 32

/-- The buffer index of a transaction whose `ADDR` is 0 to 15: the low four bits of `ADDR`. -/
def fieldIndex (t : BitVec 38) : Fin 16 := Fin.ofNat 16 (fieldAddr t).toNat

/-- Decoding a command word (30_encoding R73). -/
def decodeCommand (w : Word) : Except DecodeError Instr :=
  if configureRow.hits w then .ok (.configure (fieldN w) (fieldNA w))
  else if encodeRow.hits w then .ok (.encode (fieldLen w))
  else if decodeRow.hits w then .ok (.decode (fieldLen w))
  else if parityRow.hits w then .ok (.parity (fieldLen w))
  else .error .illegalCommand

/-- Decoding a host transaction (30_encoding R76). -/
def decodeTransaction (t : BitVec 38) : Except DecodeError Instr :=
  if wrbufRow.hits t then .ok (.wrbuf (fieldIndex t) (fieldWdata t))
  else if rdbufRow.hits t then .ok (.rdbuf (fieldIndex t))
  else if wrcmdRow.hits t then .ok (.wrcmd (fieldWdata t))
  else if rdstatusRow.hits t then .ok .rdstatus
  else if rdresultRow.hits t then .ok .rdresult
  else if rdcfgRow.hits t then .ok .rdcfg
  else .error (.illegalAccess (!fieldWE t))

/-- Decoding either form. -/
def decode : Encoded → Except DecodeError Instr
  | .command w => decodeCommand w
  | .transaction t => decodeTransaction t

/-! Encoding, from the field tables of 30_encoding R70 and R76. -/

/-- Format `CFGW`: `{reserved 31:16, NA, N, reserved 7:4, OP}`. -/
def cfgwWord (op : BitVec 4) (n : Nat) (na : Bool) : Word :=
  placeBit 32 na 15 ||| place 32 (BitVec.ofNat 7 n) 8 ||| place 32 op 0

/-- Format `BUFW`: `{reserved 31:13, LEN, reserved 7:4, OP}`. -/
def bufwWord (op : BitVec 4) (len : Nat) : Word :=
  place 32 (BitVec.ofNat 5 len) 8 ||| place 32 op 0

/-- `T = {WE, ADDR, WDATA}` (30_encoding R76). -/
def transactionWord (we : Bool) (addr : BitVec 5) (wdata : Word) : BitVec 38 :=
  placeBit 38 we 37 ||| place 38 addr 32 ||| place 38 wdata 0

/-- The encoded form of an instruction; the ignored WDATA of a read is written 0 (log 10). -/
def encode : Instr → Encoded
  | .configure n na => .command (cfgwWord 1#4 n na)
  | .encode len => .command (bufwWord 2#4 len)
  | .decode len => .command (bufwWord 3#4 len)
  | .parity len => .command (bufwWord 4#4 len)
  | .wrbuf i wdata => .transaction (transactionWord true (BitVec.ofNat 5 i.val) wdata)
  | .rdbuf i => .transaction (transactionWord false (BitVec.ofNat 5 i.val) 0#32)
  | .wrcmd w => .transaction (transactionWord true 16#5 w)
  | .rdstatus => .transaction (transactionWord false 17#5 0#32)
  | .rdresult => .transaction (transactionWord false 18#5 0#32)
  | .rdcfg => .transaction (transactionWord false 19#5 0#32)

/-- An encoded form with the bits the spec says are ignored written 0: the WDATA of a read (30_encoding R76). -/
def Encoded.canonical : Encoded → Encoded
  | .command w => .command w
  | .transaction t => .transaction (if fieldWE t then t else transactionWord false (fieldAddr t) 0#32)

/-- The instruction the decoder reads from the bits `w` of an opcode-table row of `nbits` bits: rows of at most 32 bits are
command words, longer rows are 38-bit transactions, and a number with bits above its form is no instruction (log 15). -/
def decodeTableWord (nbits w : Nat) : Option Instr :=
  if nbits ≤ 32 then
    if w < 2 ^ 32 then (decodeCommand (BitVec.ofNat 32 w)).toOption else none
  else
    if w < 2 ^ 38 then (decodeTransaction (BitVec.ofNat 38 w)).toOption else none

end Sys2Proof
end

