-- ==== Sys2Proof/Machine/BitCount.lean ====
section
/-! DEFINITION. The functions of the bit_parity_unit (40_bit_parity R100 to R102). -/

namespace Sys2Proof.Machine

/-- The number of bits of `x` below bit `k` that are 1. -/
def countBelow {w : Nat} (x : BitVec w) : Nat → Nat
  | 0 => 0
  | k + 1 => countBelow x k + (x.getLsbD k).toNat

/-- `COUNT(x)`: the number of bits of `x` that are 1 (R100). -/
def count {w : Nat} (x : BitVec w) : Nat := countBelow x w

/-- Bit 0 of `PARITY(x)`, the only bit a rule uses (R101). -/
def parityBit {w : Nat} (x : BitVec w) : Bool := count x % 2 == 1

/-- `PARITY(x) = COUNT(x) mod 2`, zero-extended to the width of `x` (R101). -/
def parity {w : Nat} (x : BitVec w) : BitVec w := BitVec.ofNat w (count x % 2)

/-- `COUNT` of a byte sequence sums the per-element counts (R102). -/
def countBytes : List Byte → Nat
  | [] => 0
  | b :: bs => count b + countBytes bs

/-- `PARITY` of a byte sequence XORs the per-element parities (R102). -/
def parityBytes : List Byte → Bool
  | [] => false
  | b :: bs => parityBit b ^^ parityBytes bs

end Sys2Proof.Machine
end

