-- ==== Sys2Proof/Config.lean ====
section
/-! DEFINITION. What is fixed for the machine but not by the spec: the identity string, the open parameters (which no rule
reads), and the free values. A constant without a body is a value nothing constrains. -/

namespace Sys2Proof.Config

/-- The model's identity string (00_scope R2, D1). -/
def identity : String := "hamming_secded_encoder/secded-rs-v7"

/-! Open parameters. No rule of the machine reads them (20_memory R58, 70_reset R190, R197; log 12). -/

/-- `BASE_ADDRESS`: where the register window sits in a host's address space (20_memory R58, U21). -/
opaque baseAddress : Nat

/-- `RESET_TIMING`, the hold time: how many clocks reset must be held (70_reset R190, U20). -/
opaque resetHold : Nat

/-- `RESET_TIMING`, the mechanism: whether reset is synchronous (70_reset R190, U20). -/
opaque resetSynchronous : Bool

/-- Clocks of a CONFIGURE beyond the first, for each `N`. -/
opaque latConfigureExtra : Nat → Nat
/-- Clocks of an ENCODE beyond the first, for each `CFG.WM`. -/
opaque latEncodeExtra : Bool → Nat
/-- Clocks of a DECODE beyond the first, for each `CFG.WM`. -/
opaque latDecodeExtra : Bool → Nat
/-- Clocks of a PARITY beyond the first, for each `LEN`. -/
opaque latParityExtra : Nat → Nat
/-- Clocks of a host transaction. -/
opaque latHost : Nat

/-- `LAT_CONFIGURE(N)`, at least one clock (70_reset R197). -/
def latConfigure (n : Nat) : Nat := latConfigureExtra n + 1

/-- `LAT_ENCODE`, at least one clock; its argument is `CFG.WM`, so it cannot depend on `BUF` (70_reset R197, R198). -/
def latEncode (wm : Bool) : Nat := latEncodeExtra wm + 1

/-- `LAT_DECODE`, at least one clock; its argument is `CFG.WM`, so it cannot depend on `BUF` (70_reset R197, R198). -/
def latDecode (wm : Bool) : Nat := latDecodeExtra wm + 1

/-- `LAT_PARITY(LEN)`, at least one clock (70_reset R197). -/
def latParity (len : Nat) : Nat := latParityExtra len + 1

/-! Free values, indexed by the draw counter of State. -/

/-- What a read of BUF, RESULT or CFG returns while `BUSY = 1` (44_host_interface R158, U12; log 4). -/
opaque busyRead : Nat → Word

/-- What `BUF[i]` reads as from a reset until something writes it (10_state R24, R37, U5; log 1). -/
opaque unwrittenByte : Nat → Nat → Byte

/-- Row `k` of EMAT after a reset or a failed CONFIGURE (41_matrix_builder R122, 70_reset R190, U11; log 5). -/
opaque undefinedRow : Nat → Nat → Wide

/-- `SYN[s].V` after a reset or a failed CONFIGURE (41_matrix_builder R122, 70_reset R190, U11; log 5). -/
opaque undefinedSynV : Nat → Nat → Bool

/-- `SYN[s].POS` after a reset or a failed CONFIGURE (41_matrix_builder R122, 70_reset R190, U11; log 5). -/
opaque undefinedSynPos : Nat → Nat → BitVec 7

end Sys2Proof.Config
end

