-- ==== Sys2Proof/Machine/State.lean ====
section
/-! DEFINITION. The state of the block (10_state) with the host's pending operations, the state after reset, and the ways a
step can stop. -/

namespace Sys2Proof.Machine

/-- The fields of STATUS (10_state R26); its word view is `Status.word`. -/
structure Status where
  busy : Bool
  fault : Bool
  cause : BitVec 4
deriving DecidableEq, Repr

/-- The fields of RESULT (10_state R27); its word view is `Result.word`. -/
structure Result where
  err : BitVec 4
  corr : Bool
  par : Bool
  pos : Byte
  synd : Byte
  count : Byte
deriving DecidableEq, Repr

/-- The fields of CFG (10_state R28); its word view is `Cfg.word`. -/
structure Cfg where
  valid : Bool
  wm : Bool
  noassert : Bool
  n : BitVec 7
  cs : BitVec 4
  m : BitVec 4
deriving DecidableEq, Repr

/-- One entry of SYN (10_state R32). -/
structure SynEntry where
  v : Bool
  pos : BitVec 7
deriving DecidableEq, Repr

/-- The fatal error codes of 60_exceptions R171. -/
inductive Cause where
  | illegalCommand
  | configSize
  | configCollision
  | notConfigured
  | length
  | encodePrecond
  | illegalAccess
  | hazard
deriving DecidableEq, Repr

/-- Who raises a fault: a command writes RESULT as well (60_exceptions R173). -/
inductive Raiser where
  | command
  | host
deriving DecidableEq, Repr

/-- The two agents (10_state R20). -/
inductive Agent where
  | host
  | codec
deriving DecidableEq, Repr

/-- One operation of the host (44_host_interface R150, 30_encoding R78, 70_reset R190). -/
inductive HostOp where
  /-- present the 38-bit transaction `T` (30_encoding R76) -/
  | tx (t : BitVec 38)
  /-- `WAIT`: repeat RDSTATUS until bit 0 of the value read is 0 (30_encoding R78) -/
  | wait
  /-- drive `rst` to 1 (70_reset R190) -/
  | assertReset
  /-- drive `rst` to 0 (70_reset R190) -/
  | releaseReset
deriving DecidableEq, Repr

/-- The state of the block and of its environment. -/
structure State where
  /-- `BUF[0..15]` (R23): the bytes written since reset; the value of a byte is `State.byte` -/
  buf : Vector Byte 16
  /-- `BUFDEF[0..15]` (R24) -/
  bufDef : Vector Bool 16
  /-- `STATUS` (R26) -/
  status : Status
  /-- `RESULT` (R27) -/
  result : Result
  /-- `CFG` (R28) -/
  cfg : Cfg
  /-- `MASK` (R30) -/
  mask : Wide
  /-- `EMAT[0..6]` (R31) -/
  emat : Vector Wide 7
  /-- `SYN[0..255]` (R32) -/
  syn : Vector SynEntry 256
  /-- `PEND` (R33) -/
  pend : Word
  /-- the level of the `rst` port (R21, R190; log 8) -/
  rst : Bool
  /-- the `rsp_rdata` port: the data of the read the last step presented, if it presented one (R21; log 3) -/
  rspRdata : Option Word
  /-- the host's remaining operations, the next one first (R150; log 7) -/
  host : List HostOp
  /-- which agent takes each of the next steps (R176; log 6) -/
  turns : List Agent
  /-- how many free values have been drawn: the model's own counter (R10; log 4) -/
  draws : Nat
  /-- which draw gave the unwritten bytes of BUF their values: the one of the last reset (R24, R37; log 1) -/
  bufDraw : Nat
  /-- the model's own record of the fault of R24: the byte of the first read that found one undefined (R24, U5; log 1) -/
  undefinedRead : Option (Fin 16)
deriving DecidableEq, Repr

/-- Faults that stop a run. There is none: the block's own fatal errors are states, and a read of an undefined byte goes on
with a free value and is recorded in `State.undefinedRead` (10_state R24; log 1). -/
inductive Fault where
deriving DecidableEq, Repr

/-- Refusals: instructions without a meaning. -/
inductive Refusal where
  /-- Raised by an arm of `exec` whose instruction has no meaning yet; no arm raises it. Safe. -/
  | notModelled (mnemonic : String)
deriving DecidableEq, Repr

/-- The outcome of a step of this machine. -/
abbrev Outcome := Host.Outcome State Fault Refusal

/-- `STATUS = 0`. -/
def Status.zero : Status := ⟨false, false, 0#4⟩

/-- `RESULT = 0`. -/
def Result.zero : Result := ⟨0#4, false, false, 0#8, 0#8, 0#8⟩

/-- `CFG = 0`. -/
def Cfg.zero : Cfg := ⟨false, false, false, 0#7, 0#4, 0#4⟩

/-- `{V = 0, POS = 0}`. -/
def SynEntry.zero : SynEntry := ⟨false, 0#7⟩

/-- The machine right after reset (10_state R37, 70_reset R190). The spec gives BUF, EMAT and SYN no value there. The zeros
are the model's: no rule reads those of EMAT and SYN (log 2), and the bytes of BUF read as the free values of draw 0 while
`BUFDEF = 0` (log 1). Nothing is queued (log 6, log 7). -/
def State.reset : State where
  buf := Vector.replicate 16 0#8
  bufDef := Vector.replicate 16 false
  status := Status.zero
  result := Result.zero
  cfg := Cfg.zero
  mask := 0#128
  emat := Vector.replicate 7 0#128
  syn := Vector.replicate 256 SynEntry.zero
  pend := 0#32
  rst := false
  rspRdata := none
  host := []
  turns := []
  draws := 1
  bufDraw := 0
  undefinedRead := none

end Sys2Proof.Machine
end

