-- ==== Sys2Proof/Machine/Flags.lean ====
section
/-! DEFINITION. The word views of STATUS, RESULT and CFG and the error codes: every flag and field position the spec gives. -/

namespace Sys2Proof.Machine

/-- The code of a fatal error (60_exceptions R171). -/
def Cause.code : Cause → BitVec 4
  | .illegalCommand => 8#4
  | .configSize => 9#4
  | .configCollision => 10#4
  | .notConfigured => 11#4
  | .length => 12#4
  | .encodePrecond => 13#4
  | .illegalAccess => 14#4
  | .hazard => 15#4

/-- The code DOUBLE_ERROR (60_exceptions R171). -/
def doubleErrorCode : BitVec 4 := 1#4

/-- The value RDSTATUS returns: `BUSY` 0, `FAULT` 1, `CAUSE` 7:4, reserved bits 0 (10_state R26). -/
def Status.word (x : Status) : Word :=
  place 32 x.cause 4 ||| placeBit 32 x.fault 1 ||| placeBit 32 x.busy 0

/-- The value RDRESULT returns: `ERR` 3:0, `CORR` 4, `PAR` 5, `POS` 15:8, `SYND` 23:16, `COUNT` 31:24, reserved bits 0
(10_state R27). -/
def Result.word (x : Result) : Word :=
  place 32 x.count 24 ||| place 32 x.synd 16 ||| place 32 x.pos 8 ||| placeBit 32 x.par 5 ||| placeBit 32 x.corr 4 |||
    place 32 x.err 0

/-- The value RDCFG returns: `VALID` 0, `WM` 1, `NOASSERT` 2, `N` 14:8, `CS` 19:16, `M` 23:20, reserved bits 0
(10_state R28). -/
def Cfg.word (x : Cfg) : Word :=
  place 32 x.m 20 ||| place 32 x.cs 16 ||| place 32 x.n 8 ||| placeBit 32 x.noassert 2 ||| placeBit 32 x.wm 1 |||
    placeBit 32 x.valid 0

/-- The buffer length in bytes the configuration fixes: `L` (00_scope R6, 44_host_interface R162). -/
def Cfg.len (c : Cfg) : Nat := if c.wm then 16 else 8

/-- The RESULT of a successful DECODE (43_decoder R140). -/
def Result.decoded (corr : Bool) (pos synd : Byte) : Result :=
  { Result.zero with corr := corr, pos := pos, synd := synd }

/-- The RESULT of a double error (43_decoder R141, 60_exceptions R178). -/
def Result.doubleError (synd : Byte) : Result :=
  { Result.zero with err := doubleErrorCode, synd := synd }

/-- The RESULT of a PARITY (40_bit_parity R103). -/
def Result.parityOf (count : Nat) : Result :=
  { Result.zero with par := count % 2 == 1, count := BitVec.ofNat 8 count }

/-- The RESULT of a command that faults (60_exceptions R173). -/
def Result.faulted (c : Cause) : Result := { Result.zero with err := c.code }

/-- The `busy` output port, a copy of `STATUS.BUSY` (10_state R21). -/
def State.busyPort (s : State) : Bool := s.status.busy

/-- The `fault` output port, a copy of `STATUS.FAULT` (10_state R21, 60_exceptions R173). -/
def State.faultPort (s : State) : Bool := s.status.fault

end Sys2Proof.Machine
end

