-- ==== Sys2Proof/Machine/Operands.lean ====
section
/-! DEFINITION. Access to the buffer: one byte, the big-endian buffer value, and the record of undefined reads (20_memory R50
to R53, 10_state R24). -/

namespace Sys2Proof.Machine

/-- `BUFDEF[i]`. -/
def State.byteDef (s : State) (i : Fin 16) : Bool := s.bufDef[i]

/-- `BUF[i]`: the byte last written since reset, or a free value where nothing has written it (10_state R24, R37, U5; log 1). -/
def State.byte (s : State) (i : Fin 16) : Byte :=
  if s.byteDef i then s.buf[i] else Config.unwrittenByte s.bufDraw i.val

/-- `BUF[i]` for an index that is a number; the callers use 0 to 15. -/
def State.byteAt (s : State) (i : Nat) : Byte := s.byte (Fin.ofNat 16 i)

/-- `BUF[i] <- b; BUFDEF[i] <- 1` (44_host_interface R151). -/
def State.setByte (s : State) (i : Fin 16) (b : Byte) : State :=
  { s with buf := s.buf.set i.val b i.isLt, bufDef := s.bufDef.set i.val true i.isLt }

/-- The part of the `l`-byte buffer value that bytes `0 .. k-1` make: byte `i` stands at bit `8 * (l - 1 - i)` (20_memory
R51). The bytes' places are disjoint, so the sum is an OR. -/
def State.valueOf (s : State) (l : Nat) : Nat → Wide
  | 0 => 0#128
  | k + 1 => s.valueOf l k ||| ((s.byteAt k).setWidth 128 <<< (8 * (l - 1 - k)))

/-- `zext_128(BufRead(l))`, for `l` of 8 or 16 (20_memory R51). -/
def State.bufRead (s : State) (l : Nat) : Wide := s.valueOf l l

/-- `BufWrite(l, v)`: `BUF[i] <- v[8*(l-1-i)+7 : 8*(l-1-i)]` and `BUFDEF[i] <- 1` for `i` in `0 .. l-1` (20_memory R52). -/
def State.bufWrite (s : State) (l : Nat) (v : Wide) : State :=
  { s with
    buf := Vector.ofFn fun i => if i.val < l then v.extractLsb' (8 * (l - 1 - i.val)) 8 else s.buf[i]
    bufDef := Vector.ofFn fun i => if i.val < l then true else s.byteDef i }

/-- The bytes `BUF[0 .. l-1]`, for `l` of at most 16. -/
def State.bytes (s : State) (l : Nat) : List Byte := ((List.finRange 16).map s.byte).take l

/-- The first of `BUF[0 .. l-1]` that no write has defined, if there is one (10_state R24). -/
def State.firstUndefined (s : State) (l : Nat) : Option (Fin 16) :=
  (List.finRange 16).find? fun i => decide (i.val < l) && !s.byteDef i

/-- Record the fault of the model of a read whose first undefined byte is `k`, unless an earlier one is recorded (10_state
R24, U5; log 1). -/
def State.noteRead (s : State) (k : Option (Fin 16)) : State := { s with undefinedRead := s.undefinedRead <|> k }

/-- `BUF[0 .. l-1]` is read as an operand: an undefined byte is recorded (10_state R24; log 1). -/
def State.readOperand (s : State) (l : Nat) : State := s.noteRead (s.firstUndefined l)

/-- `BUF[i]` is read by the host: an undefined byte is recorded (10_state R24; log 1). -/
def State.readByte (s : State) (i : Fin 16) : State := s.noteRead (if s.byteDef i then none else some i)

/-- `PAY`: the payload bits `CS .. CS+N-1` (42_encoder R132). -/
def Cfg.payload (c : Cfg) : Wide := ((1#128 <<< c.n.toNat) - 1#128) <<< c.cs.toNat

end Sys2Proof.Machine
end

