-- ==== Sys2Proof/Machine/Ops.lean ====
section
/-! DEFINITION. The shared operations on the state: answering a read, ending a command, raising a fault, reset. -/

namespace Sys2Proof.Machine

/-- `rsp_rdata <- v` (00_scope R10). -/
def State.respond (s : State) (v : Word) : State := { s with rspRdata := some v }

/-- `rsp_rdata <- undefined`: a read while `BUSY = 1` draws a free value (44_host_interface R158, U12; log 4). -/
def State.respondUndefined (s : State) : State :=
  { s with rspRdata := some (Config.busyRead s.draws), draws := s.draws + 1 }

/-- A read of BUF, RESULT or CFG that is undefined while `BUSY = 1` (44_host_interface R158). -/
def State.respondIdle (s : State) (v : Word) : State :=
  if s.status.busy then s.respondUndefined else s.respond v

/-- `return` with RESULT written: the command ends, `BUSY <- 0` and `PEND <- 0` (44_host_interface R157, 10_state R27). -/
def State.ret (s : State) (r : Result) : State :=
  { s with result := r, status := { s.status with busy := false }, pend := 0#32 }

/-- `raise Fault(cause)` (60_exceptions R173). -/
def State.raise (s : State) (who : Raiser) (c : Cause) : State :=
  { s with
    status := ⟨false, true, if s.status.cause = 0#4 then c.code else s.status.cause⟩
    pend := 0#32
    result := match who with
      | .command => Result.faulted c
      | .host => s.result }

/-- `PEND <- w; STATUS.BUSY <- 1` (44_host_interface R153). -/
def State.issue (s : State) (w : Word) : State :=
  { s with pend := w, status := { s.status with busy := true } }

/-- The common checks of WRBUF and WRCMD: ignored after a fault (44_host_interface R160), HAZARD while busy (R158). -/
def State.hostWrite (s : State) (effect : State) : State :=
  if s.status.fault then s
  else if s.status.busy then s.raise .host .hazard
  else effect

/-- An illegal transaction: ILLEGAL_ACCESS unless the block has faulted, and an illegal read returns 0 in both cases
(44_host_interface R159). -/
def State.illegalAccess (s : State) (read : Bool) : State :=
  let t := if s.status.fault then s else s.raise .host .illegalAccess
  if read then t.respond 0#32 else t

/-- `CFG <- 0; MASK <- 0` (41_matrix_builder R119). -/
def State.dropInstance (s : State) : State := { s with cfg := Cfg.zero, mask := 0#128 }

/-- EMAT and SYN become undefined, at a reset (70_reset R190) and in a failed CONFIGURE (41_matrix_builder R122, U11): free
values (log 5). -/
def State.undefineTables (s : State) : State :=
  { s with
    emat := Vector.ofFn fun k => Config.undefinedRow s.draws k.val
    syn := Vector.ofFn fun i => ⟨Config.undefinedSynV s.draws i.val, Config.undefinedSynPos s.draws i.val⟩
    draws := s.draws + 1 }

/-- CFG, MASK, EMAT and SYN of a new codec instance (41_matrix_builder R119). -/
def State.install (s : State) (c : Cfg) (mask : Wide) (emat : Vector Wide 7) (syn : Vector SynEntry 256) : State :=
  { s with cfg := c, mask := mask, emat := emat, syn := syn }

/-- The block takes the state after reset, whatever its state is (70_reset R190, 10_state R37); BUF, EMAT and SYN become
undefined, each by a new draw (log 1, log 5). What lies outside the block is not touched: the `rst` level, the host's
operations, the order of the agents, the model's counter and record (log 9). -/
def State.applyReset (s : State) : State :=
  { State.reset with
    rst := s.rst
    rspRdata := s.rspRdata
    host := s.host
    turns := s.turns
    draws := s.draws
    bufDraw := s.draws
    undefinedRead := s.undefinedRead : State }.undefineTables

/-- A transaction presented while `rst = 1` is ignored, and a read returns 0 (70_reset R190). -/
def State.ignoredInReset (s : State) (read : Bool) : State := if read then s.respond 0#32 else s

/-- What every step begins with: the turn is used, the last read's data is no longer valid (10_state R21; log 3), and the
block holds the reset state while `rst = 1` (70_reset R190). -/
def State.begin (s : State) : State :=
  let t := { s with turns := s.turns.tail, rspRdata := none }
  if t.rst then t.applyReset else t

/-- Which agent moves: as the order says; when the order has ended, the codec unit if a command is pending (weak fairness,
44_host_interface R157), else the host (60_exceptions R176; log 6). -/
def State.mover (s : State) : Agent :=
  match s.turns with
  | a :: _ => a
  | [] => if s.status.busy then .codec else .host

end Sys2Proof.Machine
end

