-- ==== Sys2Proof/Machine/BitParity.lean ====
section
/-! DEFINITION. The PARITY command (40_bit_parity). -/

namespace Sys2Proof.Machine

/-- PARITY (40_bit_parity R103). -/
def execParity (len : Nat) (s : State) : Outcome :=
  if 16 < len then .next (s.raise .command .length)
  else .next ((s.readOperand len).ret (Result.parityOf (countBytes (s.bytes len))))

end Sys2Proof.Machine
end

