-- ==== Sys2Proof/Machine/ParityMatrix.lean ====
section
/-! DEFINITION. The parity-matrix product, shared by encode, decode and the syndrome table (42_encoder R130). -/

namespace Sys2Proof.Machine

/-- `EMAT[k]`. A row number above 6 names no register and reads as no bits; no configuration uses one (log 11). -/
def row (emat : Vector Wide 7) (k : Nat) : Wide := (emat[k]?).getD 0#128

/-- `H` after rows `0 .. k-1`: row `j`'s parity stands at bit `M - j` (42_encoder R130). -/
def rowParities (emat : Vector Wide 7) (m : Nat) (v : Wide) : Nat → Wide
  | 0 => 0#128
  | k + 1 => rowParities emat m v k ||| ((BitVec.ofBool (parityBit (row emat k &&& v))).setWidth 128 <<< (m - k))

/-- `PMP(V, M)` over the rows of `emat`: the row parities at bits `M .. 1` and the fold `PARITY(V XOR H)` at bit 0
(42_encoder R130). -/
def pmp (emat : Vector Wide 7) (m : Nat) (v : Wide) : Wide :=
  let h := rowParities emat m v m
  h ||| (BitVec.ofBool (parityBit (v ^^^ h))).setWidth 128

/-- `PMP(V)`, which is `PMP(V, CFG.M)` (00_scope R10). -/
def State.pmp (s : State) (v : Wide) : Wide := Sys2Proof.Machine.pmp s.emat s.cfg.m.toNat v

/-- `SYN[S]`. An index above 255 names no entry and reads as not valid; no configuration makes one (log 11). -/
def lookup (syn : Vector SynEntry 256) (x : Nat) : SynEntry := (syn[x]?).getD SynEntry.zero

end Sys2Proof.Machine
end

