-- ==== Sys2Proof/Machine/Decoder.lean ====
section
/-! DEFINITION. The DECODE command (43_decoder). -/

namespace Sys2Proof.Machine

/-- DECODE's effect on a buffer value `v` of `l` bytes, the checks before it passed (43_decoder R140, R141). -/
def State.decodeValue (s : State) (l : Nat) (v : Wide) : State :=
  let x := s.pmp v
  let entry := lookup s.syn x.toNat
  if x = 0#128 then
    (s.bufWrite l (v &&& ~~~s.mask)).ret (Result.decoded false 0#8 0#8)
  else if entry.v then
    (s.bufWrite l ((v ^^^ (1#128 <<< entry.pos.toNat)) &&& ~~~s.mask)).ret
      (Result.decoded true (entry.pos.setWidth 8) (x.setWidth 8))
  else
    s.ret (Result.doubleError (x.setWidth 8))

/-- DECODE (43_decoder R140; the order of the checks is 60_exceptions R175). -/
def execDecode (len : Nat) (s : State) : Outcome :=
  if !s.cfg.valid then .next (s.raise .command .notConfigured)
  else if len ≠ s.cfg.len then .next (s.raise .command .length)
  else
    let l := s.cfg.len
    .next ((s.readOperand l).decodeValue l (s.bufRead l))

end Sys2Proof.Machine
end

