-- ==== Sys2Proof/Machine/Encoder.lean ====
section
/-! DEFINITION. The ENCODE command (42_encoder). -/

namespace Sys2Proof.Machine

/-- The encode precondition on a buffer value: no bit outside the payload is set (42_encoder R132). -/
def Cfg.precondition (c : Cfg) (v : Wide) : Bool := v &&& ~~~c.payload == 0#128

/-- ENCODE's effect on a buffer value `v` of `l` bytes, the checks before it passed (42_encoder R134, R133). -/
def State.encodeValue (s : State) (l : Nat) (v : Wide) : State :=
  if !s.cfg.noassert && !s.cfg.precondition v then s.raise .command .encodePrecond
  else (s.bufWrite l (v ||| s.pmp v)).ret Result.zero

/-- ENCODE (42_encoder R134; the order of the checks is 60_exceptions R175). -/
def execEncode (len : Nat) (s : State) : Outcome :=
  if !s.cfg.valid then .next (s.raise .command .notConfigured)
  else if len ≠ s.cfg.len then .next (s.raise .command .length)
  else
    let l := s.cfg.len
    .next ((s.readOperand l).encodeValue l (s.bufRead l))

end Sys2Proof.Machine
end

