-- ==== Sys2Proof/Machine/HostInterface.lean ====
section
/-! DEFINITION. The six host transactions (44_host_interface). -/

namespace Sys2Proof.Machine

/-- WRBUF (44_host_interface R151): `WDATA[31:8]` is ignored. -/
def execWrbuf (i : Fin 16) (wdata : Word) (s : State) : Outcome :=
  .next (s.hostWrite (s.setByte i (wdata.setWidth 8)))

/-- RDBUF (44_host_interface R152): a byte that nothing has written returns an undefined value (10_state R24). -/
def execRdbuf (i : Fin 16) (s : State) : Outcome :=
  .next (if s.status.busy then s.respondUndefined else (s.readByte i).respond ((s.byte i).setWidth 32))

/-- WRCMD (44_host_interface R153). -/
def execWrcmd (w : Word) (s : State) : Outcome := .next (s.hostWrite (s.issue w))

/-- RDSTATUS (44_host_interface R154): always allowed. -/
def execRdstatus (s : State) : Outcome := .next (s.respond s.status.word)

/-- RDRESULT (44_host_interface R155). -/
def execRdresult (s : State) : Outcome := .next (s.respondIdle s.result.word)

/-- RDCFG (44_host_interface R156). -/
def execRdcfg (s : State) : Outcome := .next (s.respondIdle s.cfg.word)

end Sys2Proof.Machine
end

