-- ==== Sys2Proof/Machine/MatrixBuilder.lean ====
section
/-! DEFINITION. The parity_matrix_builder, the syndrome_lookup_rom and the CONFIGURE command (41_matrix_builder). -/

namespace Sys2Proof.Machine

/-- `Msel(N)`: the smallest `m >= 1` with `2^m - m - 1 >= N` (R110). Every `N` of the command word has one of at most 8. -/
def msel (n : Nat) : Nat := ((List.range' 1 8).find? fun m => decide (n ≤ 2 ^ m - m - 1)).getD 8

/-- The width mode: `N >= 58` (R111). -/
def widthMode (n : Nat) : Bool := decide (58 ≤ n)

/-- The integers of `1 .. 2^m - 1` of weight at least 2, ascending, the first `n` of them: `col(0) .. col(n-1)` (R112). -/
def columns (m n : Nat) : List Nat :=
  ((List.range' 1 (2 ^ m - 1)).filter fun i => decide (2 ≤ count (BitVec.ofNat 8 i))).take n

/-- Weight row `k`: bit `k` of every column, the first column most significant (R113). -/
def weightRow (k : Nat) (cols : List Nat) : Wide :=
  cols.foldl (fun r c => (r <<< 1) ||| (BitVec.ofBool (c.testBit k)).setWidth 128) 0#128

/-- `EMAT[k]` for `N = n`: the weight row shifted above the check field, with the row's own check bit at `M - k`; rows
`M .. 6` are 0 (R113, R114). -/
def matrixRow (n k : Nat) : Wide :=
  if k < msel n then (weightRow k (columns (msel n) n) <<< (msel n + 1)) ||| (1#128 <<< (msel n - k)) else 0#128

/-- `EMAT[0..6]` for `N = n`. -/
def matrix (n : Nat) : Vector Wide 7 := Vector.ofFn fun k => matrixRow n k.val

/-- `S(e) = PMP(1 << e, M)`, the syndrome of position `e` (R120). -/
def syndromeOf (emat : Vector Wide 7) (m e : Nat) : Nat := (pmp emat m (1#128 <<< e)).toNat

/-- Fill SYN for the positions given, or `none` where two positions collide (R117, R118). -/
def fillSyn (emat : Vector Wide 7) (m : Nat) : List Nat → Vector SynEntry 256 → Option (Vector SynEntry 256)
  | [], t => some t
  | e :: es, t =>
    if (lookup t (syndromeOf emat m e)).v then none
    else fillSyn emat m es (t.setIfInBounds (syndromeOf emat m e) ⟨true, BitVec.ofNat 7 e⟩)

/-- The syndrome table for `N = n`: all entries cleared, then positions `0 .. N + M` (R117). -/
def syndromeTable (n : Nat) : Option (Vector SynEntry 256) :=
  fillSyn (matrix n) (msel n) (List.range (n + msel n + 1)) (Vector.replicate 256 SynEntry.zero)

/-- `MASK` for a check field of `cs` bits (R116). -/
def maskOf (cs : Nat) : Wide := (1#128 <<< cs) - 1#128

/-- `CFG` for `N = n` and `NA = na` (R119). -/
def cfgOf (n : Nat) (na : Bool) : Cfg :=
  ⟨true, widthMode n, na, BitVec.ofNat 7 n, BitVec.ofNat 4 (msel n + 1), BitVec.ofNat 4 (msel n)⟩

/-- A CONFIGURE that fails: the old instance is gone, the tables are undefined, the fault latches (R119, R122). -/
def State.configureFails (s : State) (c : Cause) : State := s.dropInstance.undefineTables.raise .command c

/-- CONFIGURE (R119). -/
def State.configure (s : State) (n : Nat) (na : Bool) : State :=
  if n < 1 ∨ 120 < n then s.configureFails .configSize
  else match syndromeTable n with
    | none => s.configureFails .configCollision
    | some syn => (s.install (cfgOf n na) (maskOf (msel n + 1)) (matrix n) syn).ret Result.zero

/-- The meaning of CONFIGURE (R119). -/
def execConfigure (n : Nat) (na : Bool) (s : State) : Outcome := .next (s.configure n na)

end Sys2Proof.Machine
end

