-- ==== Sys2Proof/Machine/Dispatch.lean ====
section
/-! DEFINITION. Which meaning each instruction has. -/

namespace Sys2Proof.Machine

def exec (i : Instr) (s : State) : Host.Outcome State Fault Refusal :=
  match i with
  | .configure n na => Sys2Proof.Machine.execConfigure n na s
  | .encode len => Sys2Proof.Machine.execEncode len s
  | .decode len => Sys2Proof.Machine.execDecode len s
  | .parity len => Sys2Proof.Machine.execParity len s
  | .wrbuf k wdata => Sys2Proof.Machine.execWrbuf k wdata s
  | .rdbuf k => Sys2Proof.Machine.execRdbuf k s
  | .wrcmd w => Sys2Proof.Machine.execWrcmd w s
  | .rdstatus => Sys2Proof.Machine.execRdstatus s
  | .rdresult => Sys2Proof.Machine.execRdresult s
  | .rdcfg => Sys2Proof.Machine.execRdcfg s

end Sys2Proof.Machine
end

