-- ==== Sys2Proof/Machine/Agents.lean ====
section
/-! DEFINITION. One move of each agent: the codec unit's completion step (44_host_interface R157) and the host's next
operation (44_host_interface R150, 70_reset R190). -/

namespace Sys2Proof.Machine

/-- The completion step: enabled exactly when `BUSY = 1`; it decodes PEND and executes the command to its end, and an
illegal word faults (44_host_interface R157, 30_encoding R73, R74). -/
def codecMove (s : State) : Outcome :=
  if s.status.busy then
    match decodeCommand s.pend with
    | .ok i => exec i s
    | .error _ => .next (s.raise .command .illegalCommand)
  else .next s

/-- One host transaction (30_encoding R76, 44_host_interface R159); while `rst = 1` it is ignored (70_reset R190). -/
def transact (t : BitVec 38) (s : State) : Outcome :=
  if s.rst then .next (s.ignoredInReset !fieldWE t)
  else match decodeTransaction t with
    | .ok i => exec i s
    | .error (.illegalAccess read) => .next (s.illegalAccess read)
    | .error .illegalCommand => .next (s.illegalAccess !fieldWE t)

/-- The transaction RDSTATUS, which `WAIT` repeats (30_encoding R78). -/
def rdstatusWord : BitVec 38 := transactionWord false 17#5 0#32

/-- After the RDSTATUS of a `WAIT`: the host repeats it while bit 0 of the value read is 1 (30_encoding R78). -/
def State.afterPoll (s : State) : State :=
  if (s.rspRdata.getD 0#32).getLsbD 0 then { s with host := .wait :: s.host } else s

/-- One `WAIT` poll: an RDSTATUS, and what the host does with the value read. -/
def poll (s : State) : Outcome :=
  match transact rdstatusWord s with
  | .next t => .next t.afterPoll
  | .fault f => .fault f
  | .refused r => .refused r

/-- One operation of the host. -/
def hostOp (op : HostOp) (s : State) : Outcome :=
  match op with
  | .tx t => transact t s
  | .wait => poll s
  | .assertReset => .next { s.applyReset with rst := true }
  | .releaseReset => .next { s with rst := false }

/-- The host's move: its next operation, or nothing where it has none. -/
def hostMove (s : State) : Outcome :=
  match s.host with
  | [] => .next s
  | op :: rest => hostOp op { s with host := rest }

end Sys2Proof.Machine
end

