-- ==== Sys2Proof/Machine/Step.lean ====
section
/-! DEFINITION. One step of the machine: one host operation or one completion (60_exceptions R176). -/

namespace Sys2Proof.Machine

/-- One step (20_memory R56, 60_exceptions R176). -/
def step (s : State) : Host.Outcome State Fault Refusal :=
  match s.mover with
  | .codec => codecMove s.begin
  | .host => hostMove s.begin

/-- The bits of a command word stored where the completion step takes them: PEND, with `BUSY = 1` and the codec unit to
move next (log 7). -/
def State.withCommandWord (s : State) (w : Word) : State :=
  { s with pend := w, status := { s.status with busy := true }, turns := .codec :: s.turns, rst := false }

/-- The bits of a transaction stored where the host's next operation is taken from, with the host to move next (log 7). -/
def State.withTransaction (s : State) (t : BitVec 38) : State :=
  { s with host := .tx t :: s.host, turns := .host :: s.turns, rst := false }

/-- The state whose next step runs the instruction with the bits `w` of an opcode-table row of `nbits` bits. -/
def State.withFetchWord (s : State) (nbits w : Nat) : State :=
  if nbits ≤ 32 then s.withCommandWord (BitVec.ofNat 32 w) else s.withTransaction (BitVec.ofNat 38 w)

end Sys2Proof.Machine
end

