-- ==== Sys2Proof/Machine/Assembler.lean ====
section
/-! DEFINITION. The assembler of host programs: lines, command shorthands and pseudo-instructions (30_encoding R77, R78). -/

namespace Sys2Proof.Machine

/-- One line of a host program, its operands as numbers. -/
inductive AsmLine where
  | wrbuf (i b : Nat)
  | rdbuf (i : Nat)
  | wrcmd (w : Nat)
  | rdstatus
  | rdresult
  | rdcfg
  | configure (n : Nat) (noassert : Bool)
  | encode (len : Nat)
  | decode (len : Nat)
  | parity (len : Nat)
  | loadbuf (bytes : List Nat)
  | wait
  | check
  | reset
deriving DecidableEq, Repr

/-- The transaction `{WE, ADDR, WDATA}` as a host operation. -/
def present (we : Bool) (addr wdata : Nat) : HostOp :=
  .tx (transactionWord we (BitVec.ofNat 5 addr) (BitVec.ofNat 32 wdata))

/-- `WRCMD w` (30_encoding R77). -/
def presentCommand (w : Nat) : HostOp := present true 16 w

/-- A command shorthand with a length operand: `WRCMD (len << 8) | op` (30_encoding R77). -/
def lengthCommand (op len : Nat) : Option (List HostOp) :=
  if len ≤ 31 then some [presentCommand ((len <<< 8) ||| op)] else none

/-- The WRBUF lines of `LOADBUF`, from byte `i` on (30_encoding R78). -/
def loadFrom (i : Nat) : List Nat → List HostOp
  | [] => []
  | b :: bs => present true i b :: loadFrom (i + 1) bs

/-- One line, or `none` where the assembler refuses it: an operand that does not fit its field is refused and not truncated
(30_encoding R77). `LOADBUF` takes 1 to 16 bytes; `RESET` asserts `rst` and releases it (30_encoding R78; log 8). -/
def assembleLine : AsmLine → Option (List HostOp)
  | .wrbuf i b => if i ≤ 15 ∧ b ≤ 255 then some [present true i b] else none
  | .rdbuf i => if i ≤ 15 then some [present false i 0] else none
  | .wrcmd w => if w < 2 ^ 32 then some [presentCommand w] else none
  | .rdstatus => some [present false 17 0]
  | .rdresult => some [present false 18 0]
  | .rdcfg => some [present false 19 0]
  | .configure n noassert =>
    if n ≤ 127 then some [presentCommand ((n <<< 8) ||| (if noassert then 0x8000 else 0) ||| 0x1)] else none
  | .encode len => lengthCommand 0x2 len
  | .decode len => lengthCommand 0x3 len
  | .parity len => lengthCommand 0x4 len
  | .loadbuf bytes =>
    if 1 ≤ bytes.length ∧ bytes.length ≤ 16 ∧ (bytes.all fun b => decide (b ≤ 255)) then some (loadFrom 0 bytes) else none
  | .wait => some [.wait]
  | .check => some [.wait, present false 18 0]
  | .reset => some [.assertReset, .releaseReset]

/-- A host program: the operations of its lines in order, or `none` where a line is refused. -/
def assemble : List AsmLine → Option (List HostOp)
  | [] => some []
  | l :: ls =>
    match assembleLine l, assemble ls with
    | some ops, some rest => some (ops ++ rest)
    | _, _ => none

end Sys2Proof.Machine
end

