-- ==== Sys2Proof/Safety.lean ====
section
/-! DEFINITION. The terms claims use: legal register contents, the invariant of every reachable state, what a frame says, and
a block that holds a codec instance. -/

namespace Sys2Proof.Machine

/-- Legal values of STATUS (10_state R26): BUSY and FAULT are never both 1; CAUSE is 0 while FAULT is 0, else a fatal code. -/
structure Status.Legal (x : Status) : Prop where
  notBoth : ¬(x.busy = true ∧ x.fault = true)
  quiet : x.fault = false → x.cause = 0#4
  fatal : x.fault = true → 8 ≤ x.cause.toNat

/-- Legal values of RESULT (10_state R27, 60_exceptions R171): the error codes 2 to 7 do not occur, an error other than a
double error leaves the other fields 0, POS is 0 unless a bit was corrected, and PAR is the parity of COUNT. -/
structure Result.Legal (x : Result) : Prop where
  code : x.err = 0#4 ∨ x.err = doubleErrorCode ∨ 8 ≤ x.err.toNat
  double : x.err = doubleErrorCode → x = Result.doubleError x.synd
  fatal : 8 ≤ x.err.toNat → x = { Result.zero with err := x.err }
  position : x.corr = false → x.pos = 0#8
  counted : x.count.toNat ≤ 128 ∧ x.par = (x.count.toNat % 2 == 1)

/-- The invariant of CFG (10_state R29). -/
structure Cfg.Legal (c : Cfg) : Prop where
  size : c.valid = true → 1 ≤ c.n.toNat ∧ c.n.toNat ≤ 120
  rows : c.valid = true → c.m.toNat = msel c.n.toNat
  check : c.valid = true → c.cs.toNat = c.m.toNat + 1
  width : c.valid = true → (c.wm = true ↔ 58 ≤ c.n.toNat)
  fits : c.valid = true → c.n.toNat + c.cs.toNat ≤ 8 * c.len
  cleared : c.valid = false → c = Cfg.zero

/-- MASK, EMAT and SYN are those CONFIGURE builds for `CFG.N` (10_state R38). -/
structure State.TablesMatch (s : State) : Prop where
  mask : s.mask = maskOf s.cfg.cs.toNat
  emat : s.emat = matrix s.cfg.n.toNat
  syn : syndromeTable s.cfg.n.toNat = some s.syn

/-- STATUS, RESULT, CFG, MASK and PEND are 0 and no buffer byte is defined: what the spec says reset leaves (10_state R37). -/
def State.AtReset (s : State) : Prop :=
  s.status.word = 0#32 ∧ s.result.word = 0#32 ∧ s.cfg.word = 0#32 ∧ s.mask = 0#128 ∧ s.pend = 0#32 ∧
    ∀ i : Fin 16, s.byteDef i = false

/-- The invariant: legal registers, PEND empty while no command is pending (10_state R33), tables that match CFG, and what
the spec says reset leaves while `rst = 1` (70_reset R190). -/
structure State.Inv (s : State) : Prop where
  status : s.status.Legal
  result : s.result.Legal
  cfg : s.cfg.Legal
  idle : s.status.busy = false → s.pend = 0#32
  unmasked : s.cfg.valid = false → s.mask = 0#128
  tables : s.cfg.valid = true → s.TablesMatch
  held : s.rst = true → s.AtReset

/-- The block holds the codec instance that `CONFIGURE n, na` builds (41_matrix_builder R119). -/
structure State.Configured (s : State) (n : Nat) (na : Bool) : Prop where
  small : 1 ≤ n
  large : n ≤ 120
  cfg : s.cfg = cfgOf n na
  mask : s.mask = maskOf (msel n + 1)
  emat : s.emat = matrix n
  syn : syndromeTable n = some s.syn

/-- Every byte of `BUF[0 .. l-1]` is defined (10_state R24). -/
def State.OperandDefined (s : State) (l : Nat) : Prop := ∀ i : Fin 16, i.val < l → s.byteDef i = true

/-- BUF and BUFDEF read the same. -/
def State.SameBuffer (s t : State) : Prop := ∀ i : Fin 16, t.byte i = s.byte i ∧ t.byteDef i = s.byteDef i

/-- BUF and BUFDEF from byte `l` on read the same. -/
def State.SameBufferFrom (l : Nat) (s t : State) : Prop :=
  ∀ i : Fin 16, l ≤ i.val → t.byte i = s.byte i ∧ t.byteDef i = s.byteDef i

/-- CFG, MASK, EMAT and SYN are the same (10_state R38). -/
def State.SameInstance (s t : State) : Prop :=
  t.cfg = s.cfg ∧ t.mask = s.mask ∧ t.emat = s.emat ∧ t.syn = s.syn

/-- What lies outside the block is the same, but for the read data and the draw counter. -/
def State.SameOutside (s t : State) : Prop := t.rst = s.rst ∧ t.host = s.host ∧ t.turns = s.turns

/-- The block's own state is the same. -/
def State.SameBlock (s t : State) : Prop :=
  s.SameBuffer t ∧ s.SameInstance t ∧ t.status = s.status ∧ t.result = s.result ∧ t.pend = s.pend

/-- A command ended without a fault: BUSY and PEND are cleared, FAULT and CAUSE stay (44_host_interface R157), and no read
was answered or value drawn. -/
def State.Ended (s t : State) : Prop :=
  t.status = { s.status with busy := false } ∧ t.pend = 0#32 ∧ t.rspRdata = s.rspRdata ∧ t.draws = s.draws

/-- The registers after `raise Fault(c)` (60_exceptions R173): FAULT latched, the first cause kept, BUSY and PEND cleared. -/
def State.FaultLatched (s t : State) (c : Cause) : Prop :=
  t.status.fault = true ∧ t.status.cause = (if s.status.cause = 0#4 then c.code else s.status.cause) ∧
    t.status.busy = false ∧ t.pend = 0#32

/-- A command faulted with `c`: the latch, RESULT holds the code and nothing else, BUF is untouched (60_exceptions R173, R174). -/
def State.CommandFaulted (s t : State) (c : Cause) : Prop :=
  s.FaultLatched t c ∧ t.result = { Result.zero with err := c.code } ∧ s.SameBuffer t ∧ s.SameOutside t

/-- A host transaction faulted with `c`: the latch, and RESULT, BUF and the codec instance stay (60_exceptions R173). -/
def State.HostFaulted (s t : State) (c : Cause) : Prop :=
  s.FaultLatched t c ∧ t.result = s.result ∧ s.SameBuffer t ∧ s.SameInstance t ∧ s.SameOutside t

/-- The host moves next and its next operation is `op`. -/
def State.HostNext (s : State) (op : HostOp) (rest : List HostOp) : Prop := s.mover = .host ∧ s.host = op :: rest

/-- An outcome is safe where no read so far found an undefined byte: no value the spec leaves undefined went into it
through BUF (10_state R24, U5). -/
def SafeOutcome (o : Outcome) : Prop := ∃ t, o = .next t ∧ t.undefinedRead = none

end Sys2Proof.Machine
end

