-- ==== Sys2Proof/Certificates/Slice0/Obligations.lean ====
section
/-! DEFINITION. The statements for the provers, in the order of the spec's files. -/

open Sys2Proof Sys2Proof.Machine

/-! ### Encoding (30_encoding) -/

/-- Decoding the encoded form of a well-formed instruction gives it back, for all ten instructions. -/
def Obligations.DecodeEncodeRoundTrip : Prop :=
  ∀ i : Instr, i.wf = true → decode (encode i) = .ok i

/-- Every encoded form that decodes is, but for a read's ignored WDATA, the encoding of its instruction, which is well
formed: no reserved bit is dropped. -/
def Obligations.DecodedFormsAreCanonical : Prop :=
  ∀ (e : Encoded) (i : Instr), decode e = .ok i → i.wf = true ∧ encode i = e.canonical

/-- 30_encoding R73: each line of the decoding, the fault of a word that no line matches, and that at most one line matches. -/
def Obligations.CommandWordDecoding : Prop :=
  ∀ w : Word,
    (w &&& 0xFFFF00FF#32 = 0x00000001#32 →
      decodeCommand w = .ok (.configure (w.extractLsb' 8 7).toNat (w.getLsbD 15))) ∧
    (w &&& 0xFFFFE0FF#32 = 0x00000002#32 → decodeCommand w = .ok (.encode (w.extractLsb' 8 5).toNat)) ∧
    (w &&& 0xFFFFE0FF#32 = 0x00000003#32 → decodeCommand w = .ok (.decode (w.extractLsb' 8 5).toNat)) ∧
    (w &&& 0xFFFFE0FF#32 = 0x00000004#32 → decodeCommand w = .ok (.parity (w.extractLsb' 8 5).toNat)) ∧
    ((∀ r ∈ commandRows, r.hits w = false) → ∀ s : State, s.status.busy = true → s.pend = w →
      ∃ t, codecMove s = .next t ∧ s.CommandFaulted t .illegalCommand) ∧
    (commandRows.filter fun r => r.hits w).length ≤ 1

/-- 30_encoding R74: exactly which command words are illegal, and that one faults at completion with no other effect. -/
def Obligations.IllegalCommandWords : Prop :=
  ∀ w : Word,
    (decodeCommand w = .error .illegalCommand ↔
      (w.extractLsb' 0 4 = 0#4 ∨ 5 ≤ (w.extractLsb' 0 4).toNat) ∨ w.extractLsb' 4 4 ≠ 0#4 ∨
      (w.extractLsb' 0 4 = 1#4 ∧ w.extractLsb' 16 16 ≠ 0#16) ∨
      (2 ≤ (w.extractLsb' 0 4).toNat ∧ (w.extractLsb' 0 4).toNat ≤ 4 ∧ w.extractLsb' 13 19 ≠ 0#19)) ∧
    (decodeCommand w = .error .illegalCommand → ∀ s : State, s.status.busy = true → s.pend = w →
      ∃ t, codecMove s = .next t ∧ s.CommandFaulted t .illegalCommand ∧ s.SameInstance t ∧
        t.rspRdata = s.rspRdata ∧ t.draws = s.draws)

/-- 30_encoding section 2: which transaction each WE and ADDR stands for; every other one decodes to nothing. -/
def Obligations.TransactionDecoding : Prop :=
  ∀ t : BitVec 38,
    let we := t.getLsbD 37
    let addr := (t.extractLsb' 32 5).toNat
    let wdata := t.extractLsb' 0 32
    (we = true → ∀ i : Fin 16, addr = i.val → decodeTransaction t = .ok (.wrbuf i wdata)) ∧
    (we = false → ∀ i : Fin 16, addr = i.val → decodeTransaction t = .ok (.rdbuf i)) ∧
    (we = true → addr = 16 → decodeTransaction t = .ok (.wrcmd wdata)) ∧
    (we = false → addr = 17 → decodeTransaction t = .ok .rdstatus) ∧
    (we = false → addr = 18 → decodeTransaction t = .ok .rdresult) ∧
    (we = false → addr = 19 → decodeTransaction t = .ok .rdcfg) ∧
    (we = true → 17 ≤ addr → decodeTransaction t = .error (.illegalAccess false)) ∧
    (we = false → addr = 16 ∨ 20 ≤ addr → decodeTransaction t = .error (.illegalAccess true))

/-- 30_encoding R79: the example lines, their words, and the instructions the decoder reads from them. -/
def Obligations.EncodingExamples : Prop :=
  decodeCommand 0x00003901#32 = .ok (.configure 57 false) ∧ decodeCommand 0x00003A01#32 = .ok (.configure 58 false) ∧
  decodeCommand 0x00007801#32 = .ok (.configure 120 false) ∧ decodeCommand 0x00007901#32 = .ok (.configure 121 false) ∧
  decodeCommand 0x00008401#32 = .ok (.configure 4 true) ∧
  decodeCommand 0x00000802#32 = .ok (.encode 8) ∧ decodeCommand 0x00000803#32 = .ok (.decode 8) ∧
  decodeCommand 0x00001002#32 = .ok (.encode 16) ∧ decodeCommand 0x00001003#32 = .ok (.decode 16) ∧
  decodeCommand 0x00001004#32 = .ok (.parity 16) ∧
  decodeTransaction 0x3000003901#38 = .ok (.wrcmd 0x00003901#32) ∧
  decodeTransaction 0x2400000005#38 = .ok (.wrbuf 4 5#32) ∧
  assembleLine (.configure 57 false) = some [.tx 0x3000003901#38] ∧
  assembleLine (.configure 58 false) = some [.tx 0x3000003A01#38] ∧
  assembleLine (.configure 120 false) = some [.tx 0x3000007801#38] ∧
  assembleLine (.configure 121 false) = some [.tx 0x3000007901#38] ∧
  assembleLine (.configure 4 true) = some [.tx 0x3000008401#38] ∧
  assembleLine (.encode 8) = some [.tx 0x3000000802#38] ∧ assembleLine (.decode 8) = some [.tx 0x3000000803#38] ∧
  assembleLine (.encode 16) = some [.tx 0x3000001002#38] ∧ assembleLine (.decode 16) = some [.tx 0x3000001003#38] ∧
  assembleLine (.parity 16) = some [.tx 0x3000001004#38] ∧
  assembleLine (.wrcmd 0x3901) = some [.tx 0x3000003901#38] ∧ assembleLine (.wrbuf 4 5) = some [.tx 0x2400000005#38]

/-- 30_encoding R77: the transaction of every line and command shorthand, and the lines that are refused. -/
def Obligations.AssemblerLines : Prop :=
  (∀ i b, i ≤ 15 → b ≤ 255 → assembleLine (.wrbuf i b) = some [.tx (BitVec.ofNat 38 (0x2000000000 + i * 2 ^ 32 + b))]) ∧
  (∀ i, i ≤ 15 → assembleLine (.rdbuf i) = some [.tx (BitVec.ofNat 38 (i * 2 ^ 32))]) ∧
  (∀ w, w < 2 ^ 32 → assembleLine (.wrcmd w) = some [.tx (BitVec.ofNat 38 (0x3000000000 + w))]) ∧
  assembleLine .rdstatus = some [.tx 0x1100000000#38] ∧ assembleLine .rdresult = some [.tx 0x1200000000#38] ∧
  assembleLine .rdcfg = some [.tx 0x1300000000#38] ∧
  (∀ n, n ≤ 127 → assembleLine (.configure n false) = some [.tx (BitVec.ofNat 38 (0x3000000000 + n * 256 + 1))] ∧
    assembleLine (.configure n true) = some [.tx (BitVec.ofNat 38 (0x3000000000 + n * 256 + 0x8001))]) ∧
  (∀ len, len ≤ 31 → assembleLine (.encode len) = some [.tx (BitVec.ofNat 38 (0x3000000000 + len * 256 + 2))] ∧
    assembleLine (.decode len) = some [.tx (BitVec.ofNat 38 (0x3000000000 + len * 256 + 3))] ∧
    assembleLine (.parity len) = some [.tx (BitVec.ofNat 38 (0x3000000000 + len * 256 + 4))]) ∧
  (∀ i b, 15 < i ∨ 255 < b → assembleLine (.wrbuf i b) = none) ∧ (∀ i, 15 < i → assembleLine (.rdbuf i) = none) ∧
  (∀ n na, 127 < n → assembleLine (.configure n na) = none) ∧
  (∀ len, 31 < len → assembleLine (.encode len) = none ∧ assembleLine (.decode len) = none ∧
    assembleLine (.parity len) = none)

/-- 30_encoding section 3: LOADBUF is one WRBUF per byte, CHECK is WAIT then RDRESULT, WAIT repeats RDSTATUS until bit 0 of
the value read is 0, and RESET asserts `rst`. The model's choices: that a poll is one step of the host which leaves `wait` at
the head of its operations while BUSY is 1 (log 18), that RESET then releases `rst`, by an operation that changes nothing else
(log 8), and that the host's other operations and the order of the agents outlive the assertion of `rst` (log 9). -/
def Obligations.PseudoInstructions : Prop :=
  (∀ bs : List Nat, 1 ≤ bs.length → bs.length ≤ 16 → (∀ b ∈ bs, b ≤ 255) →
    assembleLine (.loadbuf bs) =
      some (bs.zipIdx.map fun p => .tx (BitVec.ofNat 38 (0x2000000000 + p.2 * 2 ^ 32 + p.1)))) ∧
  assembleLine .check = some [.wait, .tx 0x1200000000#38] ∧
  (∀ s : State, s.rst = false →
    ∃ t, hostOp .wait s = .next t ∧ t.rspRdata = some s.status.word ∧ s.SameBlock t ∧
      t.host = if s.status.busy then .wait :: s.host else s.host) ∧
  assembleLine .reset = some [.assertReset, .releaseReset] ∧
  (∀ s : State, ∃ t, hostOp .assertReset s = .next t ∧ t.AtReset ∧ t.rst = true ∧ t.host = s.host ∧
    t.turns = s.turns) ∧
  (∀ s : State, ∃ t, hostOp .releaseReset s = .next t ∧ t.rst = false ∧ s.SameBlock t ∧ t.host = s.host ∧
    t.turns = s.turns ∧ t.rspRdata = s.rspRdata) ∧
  ∀ (s : State) (rest : List HostOp), s.HostNext .releaseReset rest →
    ∃ t, step s = .next t ∧ t.rst = false ∧ t.host = rest ∧ (s.rst = true → t.AtReset) ∧ (s.rst = false → s.SameBlock t)

/-! ### Registers and reset (10_state, 70_reset_and_hazards) -/

/-- 10_state section 3: the fields of STATUS, RESULT and CFG stand where the register tables put them, and every reserved bit
reads 0. -/
def Obligations.RegisterWordLayouts : Prop :=
  (∀ x : Status, x.word.getLsbD 0 = x.busy ∧ x.word.getLsbD 1 = x.fault ∧ x.word.extractLsb' 4 4 = x.cause ∧
    x.word.extractLsb' 2 2 = 0#2 ∧ x.word.extractLsb' 8 24 = 0#24) ∧
  (∀ x : Result, x.word.extractLsb' 0 4 = x.err ∧ x.word.getLsbD 4 = x.corr ∧ x.word.getLsbD 5 = x.par ∧
    x.word.extractLsb' 6 2 = 0#2 ∧ x.word.extractLsb' 8 8 = x.pos ∧ x.word.extractLsb' 16 8 = x.synd ∧
    x.word.extractLsb' 24 8 = x.count) ∧
  (∀ x : Cfg, x.word.getLsbD 0 = x.valid ∧ x.word.getLsbD 1 = x.wm ∧ x.word.getLsbD 2 = x.noassert ∧
    x.word.extractLsb' 3 5 = 0#5 ∧ x.word.extractLsb' 8 7 = x.n ∧ x.word.getLsbD 15 = false ∧
    x.word.extractLsb' 16 4 = x.cs ∧ x.word.extractLsb' 20 4 = x.m ∧ x.word.extractLsb' 24 8 = 0#8)

/-- 10_state section 3: the flags are cleared by reset and set by a host write and by a command's write. A byte whose flag is 0
reads as a free value, the same until a reset or a write; a read of one, by the host or as an operand, goes on, and the model
records it as the model's fault, the first of the run, which nothing clears. That the fault is a record in the state and not a
stop, and where the values come from, is the model's choice (log 1). -/
def Obligations.UndefinedByteReads : Prop :=
  ∀ s : State,
    (∀ i, State.reset.byteDef i = false ∧ s.applyReset.byteDef i = false) ∧
    (∀ i w, s.status.fault = false → s.status.busy = false →
      ∃ t, exec (.wrbuf i w) s = .next t ∧ t.byteDef i = true) ∧
    (∀ l v, ∀ i : Fin 16, i.val < l → (s.bufWrite l v).byteDef i = true) ∧
    (∀ i, s.byteDef i = false → s.byte i = Config.unwrittenByte s.bufDraw i.val) ∧
    (∀ i t, exec i s = .next t → t.bufDraw = s.bufDraw ∧ (s.undefinedRead ≠ none → t.undefinedRead = s.undefinedRead)) ∧
    (∀ i, s.status.busy = false → s.undefinedRead = none →
      ∃ t, exec (.rdbuf i) s = .next t ∧ t.rspRdata = some ((s.byte i).setWidth 32) ∧
        t.undefinedRead = if s.byteDef i then none else some i) ∧
    (∀ i : Instr, ∀ len, (i = .parity len ∧ len ≤ 16) ∨
        (s.cfg.valid = true ∧ len = s.cfg.len ∧ (i = .encode len ∨ i = .decode len)) → s.undefinedRead = none →
      (s.OperandDefined len → SafeOutcome (exec i s)) ∧
      (¬s.OperandDefined len →
        ∃ t k, exec i s = .next t ∧ t.undefinedRead = some k ∧ k.val < len ∧ s.byteDef k = false))

/-- 10_state R37: the values reset leaves, and that MASK, EMAT and SYN are unreachable while `CFG.VALID = 0`: no instruction lets
them be told apart, and one that sets VALID has overwritten them. -/
def Obligations.ResetValuesAndUnreachableTables : Prop :=
  State.reset.AtReset ∧
  ∀ (i : Instr) (s : State) (mask : Wide) (emat : Vector Wide 7) (syn : Vector SynEntry 256), s.cfg.valid = false →
    ∃ t u, exec i s = .next t ∧ exec i { s with mask := mask, emat := emat, syn := syn } = .next u ∧
      t = { u with mask := t.mask, emat := t.emat, syn := t.syn } ∧ (t.cfg.valid = true → u = t)

/-- 70_reset_and_hazards section 1: asserting `rst` gives the reset state from any state and abandons a pending command; while
`rst = 1` every step leaves the reset state, transactions are ignored, and reads return 0; nothing else clears FAULT. The
model's choices: that the read-data port holds nothing after a write (log 3), that `rst` stays 1 until an operation of the host
releases it (log 8), and that the host's other operations outlive a reset (log 9). -/
def Obligations.ResetFromAnyState : Prop :=
  (∀ (s : State) (rest : List HostOp), s.HostNext .assertReset rest →
    ∃ t, step s = .next t ∧ t.AtReset ∧ t.rst = true) ∧
  (∀ s : State, s.rst = true → ∃ t, step s = .next t ∧ t.AtReset) ∧
  (∀ (s : State) (w : BitVec 38) (rest : List HostOp), s.rst = true → s.HostNext (.tx w) rest →
    ∃ t, step s = .next t ∧ t.AtReset ∧ t.rst = true ∧ t.host = rest ∧
      t.rspRdata = if w.getLsbD 37 then none else some 0#32) ∧
  (∀ s t : State, s.status.fault = true → step s = .next t → t.status.fault = false →
    s.rst = true ∨ ∃ rest, s.HostNext .assertReset rest)

/-- The state after reset satisfies the invariant. -/
def Obligations.InvariantAtReset : Prop := State.reset.Inv

/-- Every step keeps the invariant: legal STATUS, RESULT and CFG (10_state R26, R27, R29), PEND empty while idle, MASK, EMAT
and SYN those that CONFIGURE builds for `CFG.N`, and, while `rst = 1`, what 10_state section 6 says reset leaves: no value of
BUF, EMAT or SYN is claimed there. That the level of `rst` is held in State is the model's choice (log 8). -/
def Obligations.InvariantPreserved : Prop :=
  ∀ s t : State, s.Inv → step s = .next t → t.Inv

/-- 10_state R38: only the completion of a CONFIGURE, or reset, changes CFG, MASK, EMAT or SYN. -/
def Obligations.InstanceImmutable : Prop :=
  ∀ s t : State, step s = .next t → ¬s.SameInstance t →
    s.rst = true ∨ (∃ rest, s.HostNext .assertReset rest) ∨
      (s.mover = .codec ∧ s.status.busy = true ∧ ∃ n na, decodeCommand s.pend = .ok (.configure n na))

/-! ### The buffer (20_memory) -/

/-- 20_memory R51: the buffer value is the big-endian sum of the bytes, so bit `b` is bit `b mod 8` of `BUF[l-1 - b div 8]`. -/
def Obligations.BufferValueIsBigEndian : Prop :=
  ∀ (s : State) (l : Nat), l = 8 ∨ l = 16 →
    (s.bufRead l).toNat = ((List.range l).map fun i => (s.byteAt i).toNat * 2 ^ (8 * (l - 1 - i))).sum ∧
    ∀ b, b < 8 * l → (s.bufRead l).getLsbD b = (s.byteAt (l - 1 - b / 8)).getLsbD (b % 8)

/-- 20_memory R52: what `BufWrite` stores in each byte, that it defines them, that no other byte changes, and that it is the
inverse of `BufRead`. -/
def Obligations.BufferWriteInvertsRead : Prop :=
  ∀ (s : State) (l : Nat) (v : Wide), l = 8 ∨ l = 16 → v.toNat < 2 ^ (8 * l) →
    (∀ i : Fin 16, i.val < l →
      (s.bufWrite l v).byte i = v.extractLsb' (8 * (l - 1 - i.val)) 8 ∧ (s.bufWrite l v).byteDef i = true) ∧
    s.SameBufferFrom l (s.bufWrite l v) ∧ (s.bufWrite l v).bufRead l = v ∧
    ∀ i, (s.bufWrite l (s.bufRead l)).byte i = s.byte i

/-- 20_memory R53: ENCODE and DECODE neither read nor change `BUF[8..15]` in width mode 0, and no command reads a byte past
its operand (CONFIGURE has none): two states that differ only there behave alike, and the bytes past the operand stay. -/
def Obligations.OnlyTheOperandMatters : Prop :=
  ∀ (s r : State) (i : Instr) (len k : Nat), r = { s with buf := r.buf, bufDef := r.bufDef } →
    (i = .encode len ∧ k = (if s.cfg.wm then 16 else 8)) ∨ (i = .decode len ∧ k = (if s.cfg.wm then 16 else 8)) ∨
      (i = .parity len ∧ k = len) ∨ ((∃ n na, i = .configure n na) ∧ k = 0) →
    (∀ j : Fin 16, j.val < k → r.byte j = s.byte j ∧ r.byteDef j = s.byteDef j) →
    ∃ t u, exec i s = .next t ∧ exec i r = .next u ∧ u = { t with buf := u.buf, bufDef := u.bufDef } ∧
      (∀ j : Fin 16, j.val < k → u.byte j = t.byte j ∧ u.byteDef j = t.byteDef j) ∧
      s.SameBufferFrom k t ∧ r.SameBufferFrom k u

/-! ### bit_parity_unit (40_bit_parity) -/

/-- 40_bit_parity R100, R101: COUNT is the number of one bits, at most the width, and the width for the maximum value; PARITY
is COUNT mod 2 at the width of the operand. -/
def Obligations.CountAndParity : Prop :=
  ∀ (w : Nat) (x : BitVec w),
    count x = ((List.range w).filter fun i => x.getLsbD i).length ∧ count x ≤ w ∧ count (BitVec.allOnes w) = w ∧
    (parity x).toNat = count x % 2 ∧ (0 < w → parityBit x = (parity x).getLsbD 0)

/-- 40_bit_parity R102: the fold over a byte sequence, and that it agrees with COUNT and PARITY of the big-endian integer of
the bytes. -/
def Obligations.ByteSequenceFold : Prop :=
  (∀ bs : List Byte, countBytes bs = (bs.map fun b => count b).sum ∧
    parityBytes bs = (bs.map fun b => parityBit b).foldr xor false) ∧
  countBytes [] = 0 ∧ parityBytes [] = false ∧
  ∀ bs : List Byte,
    countBytes bs = count (BitVec.ofNat (8 * bs.length) (bs.foldl (fun v b => v * 256 + b.toNat) 0)) ∧
    parityBytes bs = parityBit (BitVec.ofNat (8 * bs.length) (bs.foldl (fun v b => v * 256 + b.toNat) 0))

/-- 40_bit_parity R104: PARITY is linear, and `PARITY(x & r)` is the GF(2) dot product. -/
def Obligations.ParityIsLinear : Prop :=
  ∀ (w : Nat) (a b : BitVec w), parity (a ^^^ b) = parity a ^^^ parity b ∧
    parityBit (a &&& b) = (List.range w).foldl (fun x i => x ^^ (a.getLsbD i && b.getLsbD i)) false

/-- 40_bit_parity R103: PARITY answers a next state from every state; the result is the count of the bytes' one bits and its
parity, and BUF, CFG and the tables are unchanged; `LEN` above 16 faults. -/
def Obligations.ParityCommand : Prop :=
  ∀ (s : State) (len : Nat),
    (len ≤ 16 →
      ∃ t, exec (.parity len) s = .next t ∧
        (let c := ((List.range len).map fun i => count (s.byteAt i)).sum
         t.result = { Result.zero with par := c % 2 == 1, count := BitVec.ofNat 8 c } ∧ c ≤ 128) ∧
        s.Ended t ∧ s.SameBuffer t ∧ s.SameInstance t ∧ s.SameOutside t) ∧
    (16 < len → ∃ t, exec (.parity len) s = .next t ∧ s.CommandFaulted t .length ∧ s.SameInstance t)

/-! ### parity_matrix_builder and syndrome_lookup_rom (41_matrix_builder) -/

/-- 41_matrix_builder R110: `Msel(N)` is the smallest `m >= 1` with `2^m - m - 1 >= N`, for every `N` of a command word. -/
def Obligations.CheckBitCount : Prop :=
  (∀ n, n ≤ 127 → 1 ≤ msel n ∧ n ≤ 2 ^ msel n - msel n - 1 ∧
    ∀ m, 1 ≤ m → m < msel n → 2 ^ m - m - 1 < n) ∧
  msel 1 = 2 ∧ msel 57 = 6 ∧ msel 58 = 7 ∧ msel 120 = 7

/-- 00_scope R7: M, CS, W and L over the whole legal range of N. -/
def Obligations.SizingTable : Prop :=
  ∀ n na, 1 ≤ n → n ≤ 120 →
    (cfgOf n na).m.toNat =
      (if n ≤ 1 then 2 else if n ≤ 4 then 3 else if n ≤ 11 then 4 else if n ≤ 26 then 5 else if n ≤ 57 then 6 else 7) ∧
    (cfgOf n na).cs.toNat = (cfgOf n na).m.toNat + 1 ∧ n + (cfgOf n na).cs.toNat ≤ 8 * (cfgOf n na).len ∧
    (cfgOf n na).len = (if n ≤ 57 then 8 else 16)

/-- 41_matrix_builder R112: `col(j)` is the `j`-th integer, counted from 0, in ascending order among the integers of
`1 .. 2^M - 1` of weight at least 2, for every `j < N`. -/
def Obligations.ColumnsAreTheHeavyIntegers : Prop :=
  (∀ n, 1 ≤ n → n ≤ 120 → (columns (msel n) n).length = n ∧
    ∀ j, j < n → ∃ c, (columns (msel n) n)[j]? = some c ∧ 1 ≤ c ∧ c ≤ 2 ^ msel n - 1 ∧
      2 ≤ count (BitVec.ofNat 8 c) ∧
      ((List.range c).filter fun i => decide (2 ≤ count (BitVec.ofNat 8 i))).length = j) ∧
  (columns 7 120).take 15 = [3, 5, 6, 7, 9, 10, 11, 12, 13, 14, 15, 17, 18, 19, 20]

/-- 41_matrix_builder R115: every bit of every row. -/
def Obligations.MatrixRowsClosedForm : Prop :=
  ∀ n k b, 1 ≤ n → n ≤ 120 → k < msel n → b ≤ 127 →
    let m := msel n
    let cs := m + 1
    (row (matrix n) k).getLsbD b =
      if b = m - k then true
      else if cs ≤ b ∧ b ≤ cs + n - 1 then ((columns m n).getD (cs + n - 1 - b) 0).testBit k
      else false

/-- 41_matrix_builder R120: the syndrome of every position. -/
def Obligations.SyndromeClosedForm : Prop :=
  ∀ n e, 1 ≤ n → n ≤ 120 →
    let m := msel n
    let cs := m + 1
    (e = 0 → syndromeOf (matrix n) m e = 1) ∧
    (1 ≤ e → e ≤ m → syndromeOf (matrix n) m e = 2 ^ e) ∧
    (cs ≤ e → e ≤ cs + n - 1 →
      let c := (columns m n).getD (cs + n - 1 - e) 0
      syndromeOf (matrix n) m e =
        ((List.range m).map fun k => (c.testBit k).toNat * 2 ^ (m - k)).sum +
          (if parityBit (BitVec.ofNat 8 c) then 0 else 1))

/-- 41_matrix_builder R121: the syndromes of the codeword positions are distinct and non-zero and fit the table's index, so
the table always builds, and exactly `N + CS` of its entries are valid. -/
def Obligations.SyndromesAreDistinct : Prop :=
  ∀ n, 1 ≤ n → n ≤ 120 →
    (∀ e, e ≤ n + msel n → 0 < syndromeOf (matrix n) (msel n) e ∧
      syndromeOf (matrix n) (msel n) e < 2 ^ (msel n + 1) ∧ syndromeOf (matrix n) (msel n) e < 256) ∧
    (∀ a b, a ≤ n + msel n → b ≤ n + msel n →
      syndromeOf (matrix n) (msel n) a = syndromeOf (matrix n) (msel n) b → a = b) ∧
    ∃ syn, syndromeTable n = some syn ∧ (syn.toList.filter fun x => x.v).length = n + (msel n + 1)

/-- 41_matrix_builder R119, R116, R122: CONFIGURE always answers a next state. For a legal `N` it writes CFG, MASK, EMAT (its
rows from `M` up are 0) and SYN, clears RESULT and leaves BUF; for `N = 0` or `N > 120` it faults with CONFIG_SIZE and leaves
`CFG = 0`, `MASK = 0`. -/
def Obligations.ConfigureCommand : Prop :=
  ∀ (s : State) (n : Nat) (na : Bool),
    (1 ≤ n → n ≤ 120 →
      ∃ t, exec (.configure n na) s = .next t ∧
        t.cfg = ⟨true, decide (58 ≤ n), na, BitVec.ofNat 7 n, BitVec.ofNat 4 (msel n + 1), BitVec.ofNat 4 (msel n)⟩ ∧
        t.mask = (1#128 <<< (msel n + 1)) - 1#128 ∧ t.emat = matrix n ∧
        (∀ k, msel n ≤ k → k ≤ 6 → row t.emat k = 0#128) ∧
        (∀ e, e ≤ n + msel n → lookup t.syn (syndromeOf t.emat (msel n) e) = ⟨true, BitVec.ofNat 7 e⟩) ∧
        (∀ x, (∀ e, e ≤ n + msel n → x ≠ syndromeOf t.emat (msel n) e) → lookup t.syn x = ⟨false, 0#7⟩) ∧
        t.result.word = 0#32 ∧ s.Ended t ∧ s.SameBuffer t ∧ s.SameOutside t) ∧
    (n = 0 ∨ 120 < n →
      ∃ t, exec (.configure n na) s = .next t ∧ s.CommandFaulted t .configSize ∧ t.cfg.word = 0#32 ∧ t.mask = 0#128)

/-! ### The product and ENCODE (42_encoder) -/

/-- 42_encoder R130: row `k`'s parity stands at bit `M - k`, bit 0 is the parity of the value and of the row parities
together, and no bit above `M` is set. -/
def Obligations.ProductBits : Prop :=
  ∀ (emat : Vector Wide 7) (m : Nat) (v : Wide), m ≤ 15 →
    (∀ k, k < m → (pmp emat m v).getLsbD (m - k) = parityBit (row emat k &&& v)) ∧
    (pmp emat m v).getLsbD 0 =
      (List.range m).foldl (fun x k => x ^^ parityBit (row emat k &&& v)) (parityBit v) ∧
    ∀ b, m < b → (pmp emat m v).getLsbD b = false

/-- 42_encoder R131: the product is linear over GF(2). -/
def Obligations.ProductIsLinear : Prop :=
  ∀ (emat : Vector Wide 7) (m : Nat), (∀ a b : Wide, pmp emat m (a ^^^ b) = pmp emat m a ^^^ pmp emat m b) ∧
    pmp emat m 0#128 = 0#128 ∧
    ∀ (c : Wide) (e : Nat), (pmp emat m (c ^^^ (1#128 <<< e))).toNat = (pmp emat m c).toNat ^^^ syndromeOf emat m e

/-- 42_encoder R134, R132, R133: ENCODE's checks in order, and its effect when they pass, from every state: the buffer becomes
`V | PMP(V)`, RESULT 0, and nothing else changes. -/
def Obligations.EncodeCommand : Prop :=
  ∀ (s : State) (len : Nat),
    let l := if s.cfg.wm then 16 else 8
    let v := s.bufRead l
    let pay := ((1#128 <<< s.cfg.n.toNat) - 1#128) <<< s.cfg.cs.toNat
    (s.cfg.valid = false →
      ∃ t, exec (.encode len) s = .next t ∧ s.CommandFaulted t .notConfigured ∧ s.SameInstance t) ∧
    (s.cfg.valid = true → len ≠ l →
      ∃ t, exec (.encode len) s = .next t ∧ s.CommandFaulted t .length ∧ s.SameInstance t) ∧
    (s.cfg.valid = true → len = l → s.cfg.noassert = false → v &&& ~~~pay ≠ 0#128 →
      ∃ t, exec (.encode len) s = .next t ∧ s.CommandFaulted t .encodePrecond ∧ s.SameInstance t) ∧
    (s.cfg.valid = true → len = l → s.cfg.noassert = true ∨ v &&& ~~~pay = 0#128 →
      ∃ t, exec (.encode len) s = .next t ∧ t.bufRead l = v ||| pmp s.emat s.cfg.m.toNat v ∧ t.OperandDefined l ∧
        s.SameBufferFrom l t ∧ t.result.word = 0#32 ∧ s.Ended t ∧ s.SameInstance t ∧ s.SameOutside t)

/-- 42_encoder R135: what ENCODE makes of a value that meets the precondition, for every legal configuration: (a) the payload
is unchanged, (b) the check bits, (c) an even weight, (d) a zero product. -/
def Obligations.CodewordProperties : Prop :=
  ∀ (n : Nat) (v : Wide), 1 ≤ n → n ≤ 120 → v &&& ~~~(cfgOf n false).payload = 0#128 →
    let m := msel n
    let c := v ||| pmp (matrix n) m v
    c &&& (cfgOf n false).payload = v ∧
    (∀ k, k < m → c.getLsbD (m - k) = parityBit (row (matrix n) k &&& v)) ∧
    count c % 2 = 0 ∧ pmp (matrix n) m c = 0#128

/-! ### DECODE (43_decoder) -/

/-- 43_decoder R140, R141, R147: DECODE's checks in order and its three outcomes, from every state, whatever the buffer
holds. -/
def Obligations.DecodeCommand : Prop :=
  ∀ (s : State) (len : Nat),
    let l := if s.cfg.wm then 16 else 8
    let v := s.bufRead l
    let x := pmp s.emat s.cfg.m.toNat v
    let entry := lookup s.syn x.toNat
    let low := BitVec.allOnes 128 >>> (128 - 8 * l)
    (s.cfg.valid = false →
      ∃ t, exec (.decode len) s = .next t ∧ s.CommandFaulted t .notConfigured ∧ s.SameInstance t) ∧
    (s.cfg.valid = true → len ≠ l →
      ∃ t, exec (.decode len) s = .next t ∧ s.CommandFaulted t .length ∧ s.SameInstance t) ∧
    (s.cfg.valid = true → len = l →
      ∃ t, exec (.decode len) s = .next t ∧ s.Ended t ∧ s.SameInstance t ∧ s.SameOutside t ∧ s.SameBufferFrom l t ∧
        (x = 0#128 → t.OperandDefined l ∧ t.bufRead l = v &&& ~~~s.mask ∧ t.result = Result.zero) ∧
        (x ≠ 0#128 → entry.v = true → t.OperandDefined l ∧
          t.bufRead l = (v ^^^ (1#128 <<< entry.pos.toNat)) &&& ~~~s.mask &&& low ∧
          t.result = { Result.zero with corr := true, pos := entry.pos.setWidth 8, synd := x.setWidth 8 }) ∧
        (x ≠ 0#128 → entry.v = false →
          s.SameBuffer t ∧ t.result = { Result.zero with err := 1#4, synd := x.setWidth 8 }))

/-- 43_decoder R142: under every legal configuration, ENCODE and then DECODE answer next states, the buffer is what it was,
and DECODE reports no error and no correction. -/
def Obligations.EncodeDecodeRoundTrip : Prop :=
  ∀ (s : State) (n : Nat) (na : Bool), s.Configured n na →
    s.bufRead s.cfg.len &&& ~~~s.cfg.payload = 0#128 →
    ∃ t u, exec (.encode s.cfg.len) s = .next t ∧ exec (.decode s.cfg.len) t = .next u ∧
      u.bufRead s.cfg.len = s.bufRead s.cfg.len ∧ (∀ i, u.byte i = s.byte i) ∧ u.result = Result.zero ∧
      u.status.fault = s.status.fault

/-- 43_decoder R143: DECODE of a codeword with any one codeword position flipped answers a next state, corrects it, reports
the position and its syndrome, and restores the payload. -/
def Obligations.SingleErrorCorrection : Prop :=
  ∀ (s : State) (n : Nat) (na : Bool) (v : Wide) (e : Nat), s.Configured n na →
    v &&& ~~~s.cfg.payload = 0#128 → e ≤ n + msel n →
    s.bufRead s.cfg.len = (v ||| s.pmp v) ^^^ (1#128 <<< e) →
    ∃ t, exec (.decode s.cfg.len) s = .next t ∧ t.bufRead s.cfg.len = v ∧
      t.result = { Result.zero with
        corr := true, pos := BitVec.ofNat 8 e, synd := BitVec.ofNat 8 (syndromeOf s.emat (msel n) e) } ∧
      t.status.fault = s.status.fault

/-- 43_decoder R144: DECODE of a codeword with any two distinct codeword positions flipped answers a next state that reports a
double error, and the buffer keeps the corrupted value. -/
def Obligations.DoubleErrorDetection : Prop :=
  ∀ (s : State) (n : Nat) (na : Bool) (v : Wide) (a b : Nat), s.Configured n na →
    v &&& ~~~s.cfg.payload = 0#128 → a ≤ n + msel n → b ≤ n + msel n → a ≠ b →
    s.bufRead s.cfg.len = (v ||| s.pmp v) ^^^ (1#128 <<< a) ^^^ (1#128 <<< b) →
    ∃ t, exec (.decode s.cfg.len) s = .next t ∧ t.result.err = 1#4 ∧ t.result.corr = false ∧ s.SameBuffer t ∧
      t.status.fault = s.status.fault

/-- 43_decoder R145: flips of high bits. One alone is reported as a correction of position 0 and stays; with a flip of
position 0 it passes as consistent; with a flip of another codeword position it is a double error. -/
def Obligations.HighBitErrors : Prop :=
  ∀ (s : State) (n : Nat) (na : Bool) (v : Wide) (h : Nat), s.Configured n na →
    v &&& ~~~s.cfg.payload = 0#128 → msel n + 1 + n ≤ h → h < 8 * s.cfg.len →
    (s.bufRead s.cfg.len = (v ||| s.pmp v) ^^^ (1#128 <<< h) →
      ∃ t, exec (.decode s.cfg.len) s = .next t ∧ t.bufRead s.cfg.len = v ^^^ (1#128 <<< h) ∧
        t.result = { Result.zero with corr := true, pos := 0#8, synd := 1#8 }) ∧
    (s.bufRead s.cfg.len = (v ||| s.pmp v) ^^^ (1#128 <<< h) ^^^ 1#128 →
      ∃ t, exec (.decode s.cfg.len) s = .next t ∧ t.bufRead s.cfg.len = v ^^^ (1#128 <<< h) ∧ t.result = Result.zero) ∧
    (∀ e, 1 ≤ e → e ≤ n + msel n → s.bufRead s.cfg.len = (v ||| s.pmp v) ^^^ (1#128 <<< h) ^^^ (1#128 <<< e) →
      ∃ t, exec (.decode s.cfg.len) s = .next t ∧ t.result.err = 1#4 ∧ s.SameBuffer t)

/-! ### Host transactions (44_host_interface) -/

/-- 44_host_interface R151: WRBUF answers a next state from every state: it writes the low byte and its flag and nothing
else; it is ignored after a fault; it raises HAZARD while busy. -/
def Obligations.WrbufTransaction : Prop :=
  ∀ (s : State) (i : Fin 16) (w : Word),
    (s.status.fault = false → s.status.busy = false →
      ∃ t, exec (.wrbuf i w) s = .next t ∧ t.byte i = w.extractLsb' 0 8 ∧ t.byteDef i = true ∧
        (∀ j, j ≠ i → t.byte j = s.byte j ∧ t.byteDef j = s.byteDef j) ∧ s.SameInstance t ∧ s.SameOutside t ∧
        t.status = s.status ∧ t.result = s.result ∧ t.pend = s.pend ∧ t.rspRdata = s.rspRdata ∧ t.draws = s.draws) ∧
    (s.status.fault = true → exec (.wrbuf i w) s = .next s) ∧
    (s.status.fault = false → s.status.busy = true → ∃ t, exec (.wrbuf i w) s = .next t ∧ s.HostFaulted t .hazard)

/-- 44_host_interface R152: RDBUF answers a next state from every state. It returns the byte zero-extended, which is an
undefined value where nothing has written the byte, or an undefined value while busy, and writes no state of the block; it
works after a fault. -/
def Obligations.RdbufTransaction : Prop :=
  ∀ (s : State) (i : Fin 16),
    (s.status.busy = false →
      ∃ t, exec (.rdbuf i) s = .next t ∧ t.rspRdata = some ((s.byte i).setWidth 32) ∧ s.SameBlock t ∧ s.SameOutside t ∧
        t.draws = s.draws) ∧
    (s.status.busy = false → s.byteDef i = false →
      ∃ t, exec (.rdbuf i) s = .next t ∧ t.rspRdata = some ((Config.unwrittenByte s.bufDraw i.val).setWidth 32)) ∧
    (s.status.busy = true →
      ∃ t, exec (.rdbuf i) s = .next t ∧ t.rspRdata = some (Config.busyRead s.draws) ∧ s.SameBlock t ∧ s.SameOutside t)

/-- 44_host_interface R153: WRCMD answers a next state from every state: it sets PEND and BUSY and nothing else, even for an
illegal word; it is ignored after a fault; it raises HAZARD while busy. -/
def Obligations.WrcmdTransaction : Prop :=
  ∀ (s : State) (w : Word),
    (s.status.fault = false → s.status.busy = false →
      ∃ t, exec (.wrcmd w) s = .next t ∧ t.pend = w ∧ t.status = { s.status with busy := true } ∧ s.SameBuffer t ∧
        s.SameInstance t ∧ s.SameOutside t ∧ t.result = s.result ∧ t.rspRdata = s.rspRdata ∧ t.draws = s.draws) ∧
    (s.status.fault = true → exec (.wrcmd w) s = .next s) ∧
    (s.status.fault = false → s.status.busy = true → ∃ t, exec (.wrcmd w) s = .next t ∧ s.HostFaulted t .hazard)

/-- 44_host_interface R154: RDSTATUS answers a next state from every state, returns STATUS and writes no state. -/
def Obligations.RdstatusTransaction : Prop :=
  ∀ s : State, ∃ t v, exec .rdstatus s = .next t ∧ t.rspRdata = some v ∧ v.getLsbD 0 = s.status.busy ∧
    v.getLsbD 1 = s.status.fault ∧ v.extractLsb' 4 4 = s.status.cause ∧ v &&& 0xFFFFFF0C#32 = 0#32 ∧ s.SameBlock t ∧
    s.SameOutside t ∧ t.draws = s.draws

/-- 44_host_interface R155: RDRESULT answers a next state from every state, returns RESULT, or an undefined value while busy,
and writes no state. -/
def Obligations.RdresultTransaction : Prop :=
  ∀ s : State, ∃ t, exec .rdresult s = .next t ∧ s.SameBlock t ∧ s.SameOutside t ∧
    (s.status.busy = false → t.draws = s.draws ∧
      ∃ v, t.rspRdata = some v ∧ v.extractLsb' 0 4 = s.result.err ∧ v.getLsbD 4 = s.result.corr ∧
        v.getLsbD 5 = s.result.par ∧ v.extractLsb' 6 2 = 0#2 ∧ v.extractLsb' 8 8 = s.result.pos ∧
        v.extractLsb' 16 8 = s.result.synd ∧ v.extractLsb' 24 8 = s.result.count) ∧
    (s.status.busy = true → t.rspRdata = some (Config.busyRead s.draws))

/-- 44_host_interface R156: RDCFG answers a next state from every state, returns CFG, or an undefined value while busy, and
writes no state. -/
def Obligations.RdcfgTransaction : Prop :=
  ∀ s : State, ∃ t, exec .rdcfg s = .next t ∧ s.SameBlock t ∧ s.SameOutside t ∧
    (s.status.busy = false → t.draws = s.draws ∧
      ∃ v, t.rspRdata = some v ∧ v.getLsbD 0 = s.cfg.valid ∧ v.getLsbD 1 = s.cfg.wm ∧ v.getLsbD 2 = s.cfg.noassert ∧
        v.extractLsb' 8 7 = s.cfg.n ∧ v.extractLsb' 16 4 = s.cfg.cs ∧ v.extractLsb' 20 4 = s.cfg.m ∧
        v &&& 0xFF0080F8#32 = 0#32) ∧
    (s.status.busy = true → t.rspRdata = some (Config.busyRead s.draws))

/-- 20_memory section 2: a read changes no block state, and a second read with no write between returns the same value, while
no command is pending. -/
def Obligations.ReadsAreIdempotent : Prop :=
  ∀ (i : Instr) (s : State), i = .rdstatus ∨ i = .rdresult ∨ i = .rdcfg ∨ (∃ k, i = .rdbuf k) →
    s.status.busy = false → ∃ t, exec i s = .next t ∧ s.SameBlock t ∧ exec i t = .next t

/-- 44_host_interface R158: while `BUSY = 1`, writes raise HAZARD and discard the pending command, reads of BUF, RESULT and CFG
return a free value and change nothing, RDSTATUS returns STATUS, and an illegal transaction faults as ever. -/
def Obligations.BusyWindow : Prop :=
  ∀ s : State, s.status.busy = true → s.status.fault = false →
    (∀ i w, ∃ t, exec (.wrbuf i w) s = .next t ∧ s.HostFaulted t .hazard) ∧
    (∀ w, ∃ t, exec (.wrcmd w) s = .next t ∧ s.HostFaulted t .hazard) ∧
    (∀ i : Instr, i = .rdresult ∨ i = .rdcfg ∨ (∃ k, i = .rdbuf k) →
      ∃ t, exec i s = .next t ∧ t.rspRdata = some (Config.busyRead s.draws) ∧ s.SameBlock t ∧ s.SameOutside t) ∧
    (∃ t, exec .rdstatus s = .next t ∧ t.rspRdata = some s.status.word ∧ s.SameBlock t) ∧
    (∀ w read, s.rst = false → decodeTransaction w = .error (.illegalAccess read) →
      ∃ t, transact w s = .next t ∧ s.HostFaulted t .illegalAccess)

/-- 44_host_interface R159: an illegal transaction raises ILLEGAL_ACCESS unless the block has faulted, busy or not; after a
fault it has no effect; an illegal read returns 0 in both cases. -/
def Obligations.IllegalTransactions : Prop :=
  ∀ (s : State) (w : BitVec 38), s.rst = false →
    let we := w.getLsbD 37
    let addr := (w.extractLsb' 32 5).toNat
    (we = true ∧ 17 ≤ addr) ∨ (we = false ∧ (addr = 16 ∨ 20 ≤ addr)) →
    ∃ t, transact w s = .next t ∧ (s.status.fault = false → s.HostFaulted t .illegalAccess) ∧
      (s.status.fault = true → s.SameBlock t ∧ s.SameOutside t) ∧
      t.rspRdata = if we then s.rspRdata else some 0#32

/-- 44_host_interface R160: after a fault every write transaction has no effect, reads return the frozen state, and any step
that leaves the faulted state is a reset. -/
def Obligations.WritesIgnoredAfterFault : Prop :=
  ∀ s : State, s.status.fault = true → s.status.busy = false → s.rst = false →
    (∀ w : BitVec 38, w.getLsbD 37 = true → transact w s = .next s) ∧
    (∀ i, ∃ t, exec (.rdbuf i) s = .next t ∧ t.rspRdata = some ((s.byte i).setWidth 32)) ∧
    (∃ t, exec .rdstatus s = .next t ∧ t.rspRdata = some s.status.word) ∧
    (∃ t, exec .rdresult s = .next t ∧ t.rspRdata = some s.result.word) ∧
    (∃ t, exec .rdcfg s = .next t ∧ t.rspRdata = some s.cfg.word) ∧
    (∀ t, step s = .next t → t.status.fault = false → ∃ rest, s.HostNext .assertReset rest)

/-- 44_host_interface section 2: the completion step does nothing while `BUSY = 0`; else it runs the command in PEND, an illegal
word faults, and in each case the command ends: BUSY and PEND are clear after it. -/
def Obligations.CompletionStep : Prop :=
  ∀ s : State,
    (s.status.busy = false → codecMove s = .next s) ∧
    (s.status.busy = true → ∀ i, decodeCommand s.pend = .ok i → codecMove s = exec i s) ∧
    (s.status.busy = true → ∀ x, decodeCommand s.pend = .error x →
      ∃ t, codecMove s = .next t ∧ s.CommandFaulted t .illegalCommand ∧ s.SameInstance t) ∧
    (s.status.busy = true → ∃ t, codecMove s = .next t ∧ t.status.busy = false ∧ t.pend = 0#32)

/-- The completion step is eventually taken (44_host_interface section 2, weak fairness): from every state with a pending
command, within one step more than the order of the agents lists, BUSY falls. That the order is a finite list is the model's
choice (log 6). -/
def Obligations.CompletionEventually : Prop :=
  ∀ s : State, s.status.busy = true →
    ∃ k t, k ≤ s.turns.length + 1 ∧ Host.Core.run Sys2Proof.core k s = .next t ∧ t.status.busy = false

/-! ### Errors and faults (60_exceptions) -/

/-- 60_exceptions R173: what raising a fault does to each register, for a command and for a host transaction, and that the
fault port follows. -/
def Obligations.FaultEntry : Prop :=
  ∀ (s : State) (c : Cause),
    (let t := s.raise .command c
     s.CommandFaulted t c ∧ s.SameInstance t ∧ t.faultPort = true ∧ t.busyPort = false) ∧
    (let t := s.raise .host c
     s.HostFaulted t c ∧ t.faultPort = true ∧ t.busyPort = false)

/-- 60_exceptions R174: an instruction that sets FAULT leaves BUF, leaves the codec instance unless it is CONFIGURE, ends the
pending command, and no later command starts. -/
def Obligations.FaultsArePrecise : Prop :=
  ∀ (i : Instr) (s t : State), exec i s = .next t → s.status.fault = false → t.status.fault = true →
    s.SameBuffer t ∧ ((∀ n na, i ≠ .configure n na) → s.SameInstance t) ∧ s.SameOutside t ∧
    t.status.busy = false ∧ t.pend = 0#32 ∧ ∀ w, exec (.wrcmd w) t = .next t

/-- 60_exceptions R175: which error a command reports, in the order of the checks. The collision check comes after the size
check and never fails (41_matrix_builder R121), so a CONFIGURE of a legal size reports none. -/
def Obligations.PriorityOfChecks : Prop :=
  ∀ s : State, s.status.busy = true →
    let l := if s.cfg.wm then 16 else 8
    let faultsWith := fun c : Cause => ∃ t, codecMove s = .next t ∧ s.CommandFaulted t c
    (decodeCommand s.pend = .error .illegalCommand → faultsWith .illegalCommand) ∧
    (∀ n na, decodeCommand s.pend = .ok (.configure n na) → n < 1 ∨ 120 < n → faultsWith .configSize) ∧
    (∀ n na, decodeCommand s.pend = .ok (.configure n na) → 1 ≤ n → n ≤ 120 →
      ∃ t, codecMove s = .next t ∧ t.status.fault = s.status.fault ∧ t.result.err = 0#4) ∧
    (∀ len, decodeCommand s.pend = .ok (.encode len) ∨ decodeCommand s.pend = .ok (.decode len) →
      (s.cfg.valid = false → faultsWith .notConfigured) ∧
      (s.cfg.valid = true → len ≠ l → faultsWith .length)) ∧
    (∀ len, decodeCommand s.pend = .ok (.encode len) → s.cfg.valid = true → len = l →
      s.cfg.noassert = false → s.bufRead l &&& ~~~s.cfg.payload ≠ 0#128 → faultsWith .encodePrecond) ∧
    (∀ len t, decodeCommand s.pend = .ok (.decode len) → codecMove s = .next t → t.result.err = 1#4 →
      s.cfg.valid = true ∧ len = l) ∧
    (∀ len, decodeCommand s.pend = .ok (.parity len) → 16 < len → faultsWith .length)

/-- 60_exceptions R177: a faulted block is frozen: every step that is not a reset leaves the block's state as it is, so no
command is issued, no second fault occurs, CAUSE keeps the first code, and only a reset clears FAULT and the rest. -/
def Obligations.FaultedBlockIsFrozen : Prop :=
  ∀ s t : State, s.status.fault = true → s.status.busy = false → s.rst = false → step s = .next t →
    (∃ rest, s.HostNext .assertReset rest) ∨ s.SameBlock t

/-! ### The machine -/

/-- Every instruction answers a next state from every state, and so does every step. The record of undefined reads changes in
one way: the first RDBUF, ENCODE, DECODE or PARITY that reads an undefined byte writes that byte's number (the model's choice,
log 1). -/
def Obligations.EveryInstructionCompletes : Prop :=
  (∀ (i : Instr) (s : State), ∃ t, exec i s = .next t ∧
    (t.undefinedRead = s.undefinedRead ∨
      ∃ k, s.undefinedRead = none ∧ t.undefinedRead = some k ∧ s.byteDef k = false ∧
        (i = .rdbuf k ∨ ∃ len, k.val < len ∧ (i = .encode len ∨ i = .decode len ∨ i = .parity len)))) ∧
  ∀ s : State, ∃ t, step s = .next t

/-- A step runs the decoded instruction: the command in PEND when the codec unit moves, the host's next transaction when the
host moves. An illegal word in PEND faults, an illegal transaction is answered as such, and each step is the move of one agent.
The state it runs in is the model's choice: the turn is used (log 6), the last read's data is dropped (log 3), and the
operation has left the host's list (log 7). -/
def Obligations.StepRunsTheDecodedInstruction : Prop :=
  ∀ s : State, s.rst = false →
    let r := { s with turns := s.turns.tail, rspRdata := none : State }
    (s.mover = .codec → step s = codecMove r) ∧
    (∀ op rest, s.HostNext op rest → step s = hostOp op { r with host := rest }) ∧
    (∀ w rest, s.HostNext (.tx w) rest → step s = transact w { r with host := rest }) ∧
    (∀ i, s.mover = .codec → s.status.busy = true → decodeCommand s.pend = .ok i → step s = exec i r) ∧
    (∀ i w rest, s.HostNext (.tx w) rest → decodeTransaction w = .ok i → step s = exec i { r with host := rest }) ∧
    (s.mover = .codec → s.status.busy = true → decodeCommand s.pend = .error .illegalCommand →
      ∃ t, step s = .next t ∧ s.FaultLatched t .illegalCommand ∧ t.result = Result.faulted .illegalCommand ∧
        s.SameBuffer t ∧ s.SameInstance t ∧ t.rspRdata = none ∧ t.host = s.host) ∧
    (∀ w rest read, s.HostNext (.tx w) rest → decodeTransaction w = .error (.illegalAccess read) →
      ∃ t, step s = .next t ∧ (s.status.fault = false → s.FaultLatched t .illegalAccess) ∧
        (s.status.fault = true → t.status = s.status ∧ t.pend = s.pend) ∧ t.result = s.result ∧ s.SameBuffer t ∧
        s.SameInstance t ∧ t.host = rest ∧ t.rspRdata = if read then some 0#32 else none) ∧
    (s.mover = .codec → s.status.busy = false → step s = .next r) ∧ (s.mover = .host → s.host = [] → step s = .next r)

/-- The word of an opcode-table row, stored where the next step takes its instruction from, is run by that step. -/
def Obligations.FetchWordIsRun : Prop :=
  ∀ (s : State) (nbits w : Nat) (i : Instr), decodeTableWord nbits w = some i →
    step (s.withFetchWord nbits w) = exec i
      (if nbits ≤ 32 then
        { s with pend := BitVec.ofNat 32 w, status := { s.status with busy := true }, rst := false, rspRdata := none }
       else { s with rst := false, rspRdata := none })

/-- Two reads while `BUSY = 1` draw their values apart: each advances the model's counter, so that a proof cannot take the
second value for the first (the model's choice, log 4). -/
def Obligations.BusyReadsDrawApart : Prop :=
  ∀ (i : Instr) (s : State), i = .rdresult ∨ i = .rdcfg ∨ (∃ k, i = .rdbuf k) → s.status.busy = true →
    ∃ t u, exec i s = .next t ∧ exec i t = .next u ∧ t.rspRdata = some (Config.busyRead s.draws) ∧
      u.rspRdata = some (Config.busyRead (s.draws + 1))
end

