-- ==== Sys2Proof/Laws/BitCount.lean ====
section
/-! SUPPORT. Counting bits: bounds, and the count of an exclusive or. -/

namespace Sys2Proof.Machine

@[simp] theorem countBelow_zero {w : Nat} (x : BitVec w) : countBelow x 0 = 0 := rfl

theorem countBelow_succ {w : Nat} (x : BitVec w) (k : Nat) :
    countBelow x (k + 1) = countBelow x k + (x.getLsbD k).toNat := rfl

theorem countBelow_le {w : Nat} (x : BitVec w) (k : Nat) : countBelow x k ≤ k := by
  induction k with
  | zero => simp
  | succ k ih =>
    rw [countBelow_succ]
    have := (x.getLsbD k).toNat_le
    omega

/-- Two values with the same bits below `k` have the same count there. -/
theorem countBelow_congr {v w : Nat} {x : BitVec v} {y : BitVec w} {k : Nat}
    (h : ∀ i, i < k → x.getLsbD i = y.getLsbD i) : countBelow x k = countBelow y k := by
  induction k with
  | zero => rfl
  | succ k ih =>
    rw [countBelow_succ, countBelow_succ, ih fun i hi => h i (by omega), h k (by omega)]

/-- The count of an exclusive or is the sum of the counts, modulo 2. -/
theorem countBelow_xor_mod_two {w : Nat} (a b : BitVec w) (k : Nat) :
    countBelow (a ^^^ b) k % 2 = (countBelow a k + countBelow b k) % 2 := by
  induction k with
  | zero => rfl
  | succ k ih =>
    simp only [countBelow_succ, BitVec.getLsbD_xor]
    cases a.getLsbD k <;> cases b.getLsbD k <;> simp <;> omega

/-- The parity bit of an exclusive or. -/
theorem parityBit_xor {w : Nat} (a b : BitVec w) : parityBit (a ^^^ b) = (parityBit a ^^ parityBit b) := by
  have h := countBelow_xor_mod_two a b w
  simp only [parityBit, count]
  rcases Nat.mod_two_eq_zero_or_one (countBelow a w) with ha | ha <;>
    rcases Nat.mod_two_eq_zero_or_one (countBelow b w) with hb | hb <;>
    simp_all [Nat.add_mod]

@[simp] theorem parityBit_zero {w : Nat} : parityBit (0#w) = false := by
  have h : ∀ k, countBelow (0#w) k = 0 := by
    intro k
    induction k with
    | zero => rfl
    | succ k ih => simp [countBelow_succ, ih]
  simp [parityBit, count, h]

end Sys2Proof.Machine
end

