-- ==== Sys2Proof/Laws/State.lean ====
section
/-! SUPPORT. One lemma per field per update of the state, so that no later proof unfolds a record update. -/

namespace Sys2Proof.Machine

variable (s : State)

/-! `State.setByte` -/

@[simp] theorem State.setByte_buf (i : Fin 16) (b : Byte) : (s.setByte i b).buf = s.buf.set i.val b i.isLt := rfl
@[simp] theorem State.setByte_bufDef (i : Fin 16) (b : Byte) : (s.setByte i b).bufDef = s.bufDef.set i.val true i.isLt := rfl
@[simp] theorem State.setByte_status (i : Fin 16) (b : Byte) : (s.setByte i b).status = s.status := rfl
@[simp] theorem State.setByte_result (i : Fin 16) (b : Byte) : (s.setByte i b).result = s.result := rfl
@[simp] theorem State.setByte_cfg (i : Fin 16) (b : Byte) : (s.setByte i b).cfg = s.cfg := rfl
@[simp] theorem State.setByte_mask (i : Fin 16) (b : Byte) : (s.setByte i b).mask = s.mask := rfl
@[simp] theorem State.setByte_emat (i : Fin 16) (b : Byte) : (s.setByte i b).emat = s.emat := rfl
@[simp] theorem State.setByte_syn (i : Fin 16) (b : Byte) : (s.setByte i b).syn = s.syn := rfl
@[simp] theorem State.setByte_pend (i : Fin 16) (b : Byte) : (s.setByte i b).pend = s.pend := rfl
@[simp] theorem State.setByte_rst (i : Fin 16) (b : Byte) : (s.setByte i b).rst = s.rst := rfl
@[simp] theorem State.setByte_rspRdata (i : Fin 16) (b : Byte) : (s.setByte i b).rspRdata = s.rspRdata := rfl
@[simp] theorem State.setByte_host (i : Fin 16) (b : Byte) : (s.setByte i b).host = s.host := rfl
@[simp] theorem State.setByte_turns (i : Fin 16) (b : Byte) : (s.setByte i b).turns = s.turns := rfl
@[simp] theorem State.setByte_draws (i : Fin 16) (b : Byte) : (s.setByte i b).draws = s.draws := rfl
@[simp] theorem State.setByte_bufDraw (i : Fin 16) (b : Byte) : (s.setByte i b).bufDraw = s.bufDraw := rfl
@[simp] theorem State.setByte_undefinedRead (i : Fin 16) (b : Byte) : (s.setByte i b).undefinedRead = s.undefinedRead := rfl

/-! `State.bufWrite` -/

@[simp] theorem State.bufWrite_buf (l : Nat) (v : Wide) : (s.bufWrite l v).buf = Vector.ofFn fun i => if i.val < l then v.extractLsb' (8 * (l - 1 - i.val)) 8 else s.buf[i] := rfl
@[simp] theorem State.bufWrite_bufDef (l : Nat) (v : Wide) : (s.bufWrite l v).bufDef = Vector.ofFn fun i => if i.val < l then true else s.byteDef i := rfl
@[simp] theorem State.bufWrite_status (l : Nat) (v : Wide) : (s.bufWrite l v).status = s.status := rfl
@[simp] theorem State.bufWrite_result (l : Nat) (v : Wide) : (s.bufWrite l v).result = s.result := rfl
@[simp] theorem State.bufWrite_cfg (l : Nat) (v : Wide) : (s.bufWrite l v).cfg = s.cfg := rfl
@[simp] theorem State.bufWrite_mask (l : Nat) (v : Wide) : (s.bufWrite l v).mask = s.mask := rfl
@[simp] theorem State.bufWrite_emat (l : Nat) (v : Wide) : (s.bufWrite l v).emat = s.emat := rfl
@[simp] theorem State.bufWrite_syn (l : Nat) (v : Wide) : (s.bufWrite l v).syn = s.syn := rfl
@[simp] theorem State.bufWrite_pend (l : Nat) (v : Wide) : (s.bufWrite l v).pend = s.pend := rfl
@[simp] theorem State.bufWrite_rst (l : Nat) (v : Wide) : (s.bufWrite l v).rst = s.rst := rfl
@[simp] theorem State.bufWrite_rspRdata (l : Nat) (v : Wide) : (s.bufWrite l v).rspRdata = s.rspRdata := rfl
@[simp] theorem State.bufWrite_host (l : Nat) (v : Wide) : (s.bufWrite l v).host = s.host := rfl
@[simp] theorem State.bufWrite_turns (l : Nat) (v : Wide) : (s.bufWrite l v).turns = s.turns := rfl
@[simp] theorem State.bufWrite_draws (l : Nat) (v : Wide) : (s.bufWrite l v).draws = s.draws := rfl
@[simp] theorem State.bufWrite_bufDraw (l : Nat) (v : Wide) : (s.bufWrite l v).bufDraw = s.bufDraw := rfl
@[simp] theorem State.bufWrite_undefinedRead (l : Nat) (v : Wide) : (s.bufWrite l v).undefinedRead = s.undefinedRead := rfl

/-! `State.respond` -/

@[simp] theorem State.respond_buf (v : Word) : (s.respond v).buf = s.buf := rfl
@[simp] theorem State.respond_bufDef (v : Word) : (s.respond v).bufDef = s.bufDef := rfl
@[simp] theorem State.respond_status (v : Word) : (s.respond v).status = s.status := rfl
@[simp] theorem State.respond_result (v : Word) : (s.respond v).result = s.result := rfl
@[simp] theorem State.respond_cfg (v : Word) : (s.respond v).cfg = s.cfg := rfl
@[simp] theorem State.respond_mask (v : Word) : (s.respond v).mask = s.mask := rfl
@[simp] theorem State.respond_emat (v : Word) : (s.respond v).emat = s.emat := rfl
@[simp] theorem State.respond_syn (v : Word) : (s.respond v).syn = s.syn := rfl
@[simp] theorem State.respond_pend (v : Word) : (s.respond v).pend = s.pend := rfl
@[simp] theorem State.respond_rst (v : Word) : (s.respond v).rst = s.rst := rfl
@[simp] theorem State.respond_rspRdata (v : Word) : (s.respond v).rspRdata = some v := rfl
@[simp] theorem State.respond_host (v : Word) : (s.respond v).host = s.host := rfl
@[simp] theorem State.respond_turns (v : Word) : (s.respond v).turns = s.turns := rfl
@[simp] theorem State.respond_draws (v : Word) : (s.respond v).draws = s.draws := rfl
@[simp] theorem State.respond_bufDraw (v : Word) : (s.respond v).bufDraw = s.bufDraw := rfl
@[simp] theorem State.respond_undefinedRead (v : Word) : (s.respond v).undefinedRead = s.undefinedRead := rfl

/-! `State.respondUndefined` -/

@[simp] theorem State.respondUndefined_buf : (s.respondUndefined).buf = s.buf := rfl
@[simp] theorem State.respondUndefined_bufDef : (s.respondUndefined).bufDef = s.bufDef := rfl
@[simp] theorem State.respondUndefined_status : (s.respondUndefined).status = s.status := rfl
@[simp] theorem State.respondUndefined_result : (s.respondUndefined).result = s.result := rfl
@[simp] theorem State.respondUndefined_cfg : (s.respondUndefined).cfg = s.cfg := rfl
@[simp] theorem State.respondUndefined_mask : (s.respondUndefined).mask = s.mask := rfl
@[simp] theorem State.respondUndefined_emat : (s.respondUndefined).emat = s.emat := rfl
@[simp] theorem State.respondUndefined_syn : (s.respondUndefined).syn = s.syn := rfl
@[simp] theorem State.respondUndefined_pend : (s.respondUndefined).pend = s.pend := rfl
@[simp] theorem State.respondUndefined_rst : (s.respondUndefined).rst = s.rst := rfl
@[simp] theorem State.respondUndefined_rspRdata : (s.respondUndefined).rspRdata = some (Config.busyRead s.draws) := rfl
@[simp] theorem State.respondUndefined_host : (s.respondUndefined).host = s.host := rfl
@[simp] theorem State.respondUndefined_turns : (s.respondUndefined).turns = s.turns := rfl
@[simp] theorem State.respondUndefined_draws : (s.respondUndefined).draws = s.draws + 1 := rfl
@[simp] theorem State.respondUndefined_bufDraw : (s.respondUndefined).bufDraw = s.bufDraw := rfl
@[simp] theorem State.respondUndefined_undefinedRead : (s.respondUndefined).undefinedRead = s.undefinedRead := rfl

/-! `State.ret` -/

@[simp] theorem State.ret_buf (r : Result) : (s.ret r).buf = s.buf := rfl
@[simp] theorem State.ret_bufDef (r : Result) : (s.ret r).bufDef = s.bufDef := rfl
@[simp] theorem State.ret_status (r : Result) : (s.ret r).status = { s.status with busy := false } := rfl
@[simp] theorem State.ret_result (r : Result) : (s.ret r).result = r := rfl
@[simp] theorem State.ret_cfg (r : Result) : (s.ret r).cfg = s.cfg := rfl
@[simp] theorem State.ret_mask (r : Result) : (s.ret r).mask = s.mask := rfl
@[simp] theorem State.ret_emat (r : Result) : (s.ret r).emat = s.emat := rfl
@[simp] theorem State.ret_syn (r : Result) : (s.ret r).syn = s.syn := rfl
@[simp] theorem State.ret_pend (r : Result) : (s.ret r).pend = 0#32 := rfl
@[simp] theorem State.ret_rst (r : Result) : (s.ret r).rst = s.rst := rfl
@[simp] theorem State.ret_rspRdata (r : Result) : (s.ret r).rspRdata = s.rspRdata := rfl
@[simp] theorem State.ret_host (r : Result) : (s.ret r).host = s.host := rfl
@[simp] theorem State.ret_turns (r : Result) : (s.ret r).turns = s.turns := rfl
@[simp] theorem State.ret_draws (r : Result) : (s.ret r).draws = s.draws := rfl
@[simp] theorem State.ret_bufDraw (r : Result) : (s.ret r).bufDraw = s.bufDraw := rfl
@[simp] theorem State.ret_undefinedRead (r : Result) : (s.ret r).undefinedRead = s.undefinedRead := rfl

/-! `State.raise` -/

@[simp] theorem State.raise_buf (who : Raiser) (c : Cause) : (s.raise who c).buf = s.buf := rfl
@[simp] theorem State.raise_bufDef (who : Raiser) (c : Cause) : (s.raise who c).bufDef = s.bufDef := rfl
@[simp] theorem State.raise_status (who : Raiser) (c : Cause) : (s.raise who c).status = ⟨false, true, if s.status.cause = 0#4 then c.code else s.status.cause⟩ := rfl
@[simp] theorem State.raise_result (who : Raiser) (c : Cause) : (s.raise who c).result = match who with | .command => Result.faulted c | .host => s.result := rfl
@[simp] theorem State.raise_cfg (who : Raiser) (c : Cause) : (s.raise who c).cfg = s.cfg := rfl
@[simp] theorem State.raise_mask (who : Raiser) (c : Cause) : (s.raise who c).mask = s.mask := rfl
@[simp] theorem State.raise_emat (who : Raiser) (c : Cause) : (s.raise who c).emat = s.emat := rfl
@[simp] theorem State.raise_syn (who : Raiser) (c : Cause) : (s.raise who c).syn = s.syn := rfl
@[simp] theorem State.raise_pend (who : Raiser) (c : Cause) : (s.raise who c).pend = 0#32 := rfl
@[simp] theorem State.raise_rst (who : Raiser) (c : Cause) : (s.raise who c).rst = s.rst := rfl
@[simp] theorem State.raise_rspRdata (who : Raiser) (c : Cause) : (s.raise who c).rspRdata = s.rspRdata := rfl
@[simp] theorem State.raise_host (who : Raiser) (c : Cause) : (s.raise who c).host = s.host := rfl
@[simp] theorem State.raise_turns (who : Raiser) (c : Cause) : (s.raise who c).turns = s.turns := rfl
@[simp] theorem State.raise_draws (who : Raiser) (c : Cause) : (s.raise who c).draws = s.draws := rfl
@[simp] theorem State.raise_bufDraw (who : Raiser) (c : Cause) : (s.raise who c).bufDraw = s.bufDraw := rfl
@[simp] theorem State.raise_undefinedRead (who : Raiser) (c : Cause) : (s.raise who c).undefinedRead = s.undefinedRead := rfl

/-! `State.issue` -/

@[simp] theorem State.issue_buf (w : Word) : (s.issue w).buf = s.buf := rfl
@[simp] theorem State.issue_bufDef (w : Word) : (s.issue w).bufDef = s.bufDef := rfl
@[simp] theorem State.issue_status (w : Word) : (s.issue w).status = { s.status with busy := true } := rfl
@[simp] theorem State.issue_result (w : Word) : (s.issue w).result = s.result := rfl
@[simp] theorem State.issue_cfg (w : Word) : (s.issue w).cfg = s.cfg := rfl
@[simp] theorem State.issue_mask (w : Word) : (s.issue w).mask = s.mask := rfl
@[simp] theorem State.issue_emat (w : Word) : (s.issue w).emat = s.emat := rfl
@[simp] theorem State.issue_syn (w : Word) : (s.issue w).syn = s.syn := rfl
@[simp] theorem State.issue_pend (w : Word) : (s.issue w).pend = w := rfl
@[simp] theorem State.issue_rst (w : Word) : (s.issue w).rst = s.rst := rfl
@[simp] theorem State.issue_rspRdata (w : Word) : (s.issue w).rspRdata = s.rspRdata := rfl
@[simp] theorem State.issue_host (w : Word) : (s.issue w).host = s.host := rfl
@[simp] theorem State.issue_turns (w : Word) : (s.issue w).turns = s.turns := rfl
@[simp] theorem State.issue_draws (w : Word) : (s.issue w).draws = s.draws := rfl
@[simp] theorem State.issue_bufDraw (w : Word) : (s.issue w).bufDraw = s.bufDraw := rfl
@[simp] theorem State.issue_undefinedRead (w : Word) : (s.issue w).undefinedRead = s.undefinedRead := rfl

/-! `State.dropInstance` -/

@[simp] theorem State.dropInstance_buf : (s.dropInstance).buf = s.buf := rfl
@[simp] theorem State.dropInstance_bufDef : (s.dropInstance).bufDef = s.bufDef := rfl
@[simp] theorem State.dropInstance_status : (s.dropInstance).status = s.status := rfl
@[simp] theorem State.dropInstance_result : (s.dropInstance).result = s.result := rfl
@[simp] theorem State.dropInstance_cfg : (s.dropInstance).cfg = Cfg.zero := rfl
@[simp] theorem State.dropInstance_mask : (s.dropInstance).mask = 0#128 := rfl
@[simp] theorem State.dropInstance_emat : (s.dropInstance).emat = s.emat := rfl
@[simp] theorem State.dropInstance_syn : (s.dropInstance).syn = s.syn := rfl
@[simp] theorem State.dropInstance_pend : (s.dropInstance).pend = s.pend := rfl
@[simp] theorem State.dropInstance_rst : (s.dropInstance).rst = s.rst := rfl
@[simp] theorem State.dropInstance_rspRdata : (s.dropInstance).rspRdata = s.rspRdata := rfl
@[simp] theorem State.dropInstance_host : (s.dropInstance).host = s.host := rfl
@[simp] theorem State.dropInstance_turns : (s.dropInstance).turns = s.turns := rfl
@[simp] theorem State.dropInstance_draws : (s.dropInstance).draws = s.draws := rfl
@[simp] theorem State.dropInstance_bufDraw : (s.dropInstance).bufDraw = s.bufDraw := rfl
@[simp] theorem State.dropInstance_undefinedRead : (s.dropInstance).undefinedRead = s.undefinedRead := rfl

/-! `State.undefineTables` -/

@[simp] theorem State.undefineTables_buf : (s.undefineTables).buf = s.buf := rfl
@[simp] theorem State.undefineTables_bufDef : (s.undefineTables).bufDef = s.bufDef := rfl
@[simp] theorem State.undefineTables_status : (s.undefineTables).status = s.status := rfl
@[simp] theorem State.undefineTables_result : (s.undefineTables).result = s.result := rfl
@[simp] theorem State.undefineTables_cfg : (s.undefineTables).cfg = s.cfg := rfl
@[simp] theorem State.undefineTables_mask : (s.undefineTables).mask = s.mask := rfl
@[simp] theorem State.undefineTables_emat : (s.undefineTables).emat = Vector.ofFn fun k => Config.undefinedRow s.draws k.val := rfl
@[simp] theorem State.undefineTables_syn : (s.undefineTables).syn = Vector.ofFn fun i => ⟨Config.undefinedSynV s.draws i.val, Config.undefinedSynPos s.draws i.val⟩ := rfl
@[simp] theorem State.undefineTables_pend : (s.undefineTables).pend = s.pend := rfl
@[simp] theorem State.undefineTables_rst : (s.undefineTables).rst = s.rst := rfl
@[simp] theorem State.undefineTables_rspRdata : (s.undefineTables).rspRdata = s.rspRdata := rfl
@[simp] theorem State.undefineTables_host : (s.undefineTables).host = s.host := rfl
@[simp] theorem State.undefineTables_turns : (s.undefineTables).turns = s.turns := rfl
@[simp] theorem State.undefineTables_draws : (s.undefineTables).draws = s.draws + 1 := rfl
@[simp] theorem State.undefineTables_bufDraw : (s.undefineTables).bufDraw = s.bufDraw := rfl
@[simp] theorem State.undefineTables_undefinedRead : (s.undefineTables).undefinedRead = s.undefinedRead := rfl

/-! `State.install` -/

@[simp] theorem State.install_buf (c : Cfg) (mask : Wide) (emat : Vector Wide 7) (syn : Vector SynEntry 256) : (s.install c mask emat syn).buf = s.buf := rfl
@[simp] theorem State.install_bufDef (c : Cfg) (mask : Wide) (emat : Vector Wide 7) (syn : Vector SynEntry 256) : (s.install c mask emat syn).bufDef = s.bufDef := rfl
@[simp] theorem State.install_status (c : Cfg) (mask : Wide) (emat : Vector Wide 7) (syn : Vector SynEntry 256) : (s.install c mask emat syn).status = s.status := rfl
@[simp] theorem State.install_result (c : Cfg) (mask : Wide) (emat : Vector Wide 7) (syn : Vector SynEntry 256) : (s.install c mask emat syn).result = s.result := rfl
@[simp] theorem State.install_cfg (c : Cfg) (mask : Wide) (emat : Vector Wide 7) (syn : Vector SynEntry 256) : (s.install c mask emat syn).cfg = c := rfl
@[simp] theorem State.install_mask (c : Cfg) (mask : Wide) (emat : Vector Wide 7) (syn : Vector SynEntry 256) : (s.install c mask emat syn).mask = mask := rfl
@[simp] theorem State.install_emat (c : Cfg) (mask : Wide) (emat : Vector Wide 7) (syn : Vector SynEntry 256) : (s.install c mask emat syn).emat = emat := rfl
@[simp] theorem State.install_syn (c : Cfg) (mask : Wide) (emat : Vector Wide 7) (syn : Vector SynEntry 256) : (s.install c mask emat syn).syn = syn := rfl
@[simp] theorem State.install_pend (c : Cfg) (mask : Wide) (emat : Vector Wide 7) (syn : Vector SynEntry 256) : (s.install c mask emat syn).pend = s.pend := rfl
@[simp] theorem State.install_rst (c : Cfg) (mask : Wide) (emat : Vector Wide 7) (syn : Vector SynEntry 256) : (s.install c mask emat syn).rst = s.rst := rfl
@[simp] theorem State.install_rspRdata (c : Cfg) (mask : Wide) (emat : Vector Wide 7) (syn : Vector SynEntry 256) : (s.install c mask emat syn).rspRdata = s.rspRdata := rfl
@[simp] theorem State.install_host (c : Cfg) (mask : Wide) (emat : Vector Wide 7) (syn : Vector SynEntry 256) : (s.install c mask emat syn).host = s.host := rfl
@[simp] theorem State.install_turns (c : Cfg) (mask : Wide) (emat : Vector Wide 7) (syn : Vector SynEntry 256) : (s.install c mask emat syn).turns = s.turns := rfl
@[simp] theorem State.install_draws (c : Cfg) (mask : Wide) (emat : Vector Wide 7) (syn : Vector SynEntry 256) : (s.install c mask emat syn).draws = s.draws := rfl
@[simp] theorem State.install_bufDraw (c : Cfg) (mask : Wide) (emat : Vector Wide 7) (syn : Vector SynEntry 256) : (s.install c mask emat syn).bufDraw = s.bufDraw := rfl
@[simp] theorem State.install_undefinedRead (c : Cfg) (mask : Wide) (emat : Vector Wide 7) (syn : Vector SynEntry 256) : (s.install c mask emat syn).undefinedRead = s.undefinedRead := rfl

/-! `State.applyReset` -/

@[simp] theorem State.applyReset_buf : s.applyReset.buf = Vector.replicate 16 0#8 := rfl
@[simp] theorem State.applyReset_bufDef : s.applyReset.bufDef = Vector.replicate 16 false := rfl
@[simp] theorem State.applyReset_status : s.applyReset.status = Status.zero := rfl
@[simp] theorem State.applyReset_result : s.applyReset.result = Result.zero := rfl
@[simp] theorem State.applyReset_cfg : s.applyReset.cfg = Cfg.zero := rfl
@[simp] theorem State.applyReset_mask : s.applyReset.mask = 0#128 := rfl
@[simp] theorem State.applyReset_emat : s.applyReset.emat = Vector.ofFn fun k => Config.undefinedRow s.draws k.val := rfl
@[simp] theorem State.applyReset_syn : s.applyReset.syn = Vector.ofFn fun i => ⟨Config.undefinedSynV s.draws i.val, Config.undefinedSynPos s.draws i.val⟩ := rfl
@[simp] theorem State.applyReset_pend : s.applyReset.pend = 0#32 := rfl
@[simp] theorem State.applyReset_rst : s.applyReset.rst = s.rst := rfl
@[simp] theorem State.applyReset_rspRdata : s.applyReset.rspRdata = s.rspRdata := rfl
@[simp] theorem State.applyReset_host : s.applyReset.host = s.host := rfl
@[simp] theorem State.applyReset_turns : s.applyReset.turns = s.turns := rfl
@[simp] theorem State.applyReset_draws : s.applyReset.draws = s.draws + 1 := rfl
@[simp] theorem State.applyReset_bufDraw : s.applyReset.bufDraw = s.draws := rfl
@[simp] theorem State.applyReset_undefinedRead : s.applyReset.undefinedRead = s.undefinedRead := rfl

/-- Reset leaves what the spec says it leaves, whatever the state was (70_reset R190). -/
theorem State.applyReset_atReset : s.applyReset.AtReset := by
  refine ⟨?_, ?_, ?_, rfl, rfl, fun i => by simp [State.byteDef]⟩
  · show Status.zero.word = 0#32; decide
  · show Result.zero.word = 0#32; decide
  · show Cfg.zero.word = 0#32; decide

/-! `State.noteRead`, and the two reads that are instances of it -/

@[simp] theorem State.noteRead_buf (k : Option (Fin 16)) : (s.noteRead k).buf = s.buf := rfl
@[simp] theorem State.noteRead_bufDef (k : Option (Fin 16)) : (s.noteRead k).bufDef = s.bufDef := rfl
@[simp] theorem State.noteRead_status (k : Option (Fin 16)) : (s.noteRead k).status = s.status := rfl
@[simp] theorem State.noteRead_result (k : Option (Fin 16)) : (s.noteRead k).result = s.result := rfl
@[simp] theorem State.noteRead_cfg (k : Option (Fin 16)) : (s.noteRead k).cfg = s.cfg := rfl
@[simp] theorem State.noteRead_mask (k : Option (Fin 16)) : (s.noteRead k).mask = s.mask := rfl
@[simp] theorem State.noteRead_emat (k : Option (Fin 16)) : (s.noteRead k).emat = s.emat := rfl
@[simp] theorem State.noteRead_syn (k : Option (Fin 16)) : (s.noteRead k).syn = s.syn := rfl
@[simp] theorem State.noteRead_pend (k : Option (Fin 16)) : (s.noteRead k).pend = s.pend := rfl
@[simp] theorem State.noteRead_rst (k : Option (Fin 16)) : (s.noteRead k).rst = s.rst := rfl
@[simp] theorem State.noteRead_rspRdata (k : Option (Fin 16)) : (s.noteRead k).rspRdata = s.rspRdata := rfl
@[simp] theorem State.noteRead_host (k : Option (Fin 16)) : (s.noteRead k).host = s.host := rfl
@[simp] theorem State.noteRead_turns (k : Option (Fin 16)) : (s.noteRead k).turns = s.turns := rfl
@[simp] theorem State.noteRead_draws (k : Option (Fin 16)) : (s.noteRead k).draws = s.draws := rfl
@[simp] theorem State.noteRead_bufDraw (k : Option (Fin 16)) : (s.noteRead k).bufDraw = s.bufDraw := rfl
@[simp] theorem State.noteRead_undefinedRead (k : Option (Fin 16)) : (s.noteRead k).undefinedRead = (s.undefinedRead <|> k) := rfl
@[simp] theorem State.noteRead_byte (k : Option (Fin 16)) (i : Fin 16) : (s.noteRead k).byte i = s.byte i := rfl
@[simp] theorem State.noteRead_byteDef (k : Option (Fin 16)) (i : Fin 16) : (s.noteRead k).byteDef i = s.byteDef i := rfl
@[simp] theorem State.noteRead_pmp (k : Option (Fin 16)) (v : Wide) : (s.noteRead k).pmp v = s.pmp v := rfl
@[simp] theorem State.readOperand_eq (l : Nat) : s.readOperand l = s.noteRead (s.firstUndefined l) := rfl
@[simp] theorem State.readByte_eq (i : Fin 16) : s.readByte i = s.noteRead (if s.byteDef i then none else some i) := rfl

/-- A read of defined bytes records nothing. -/
@[simp] theorem State.noteRead_none : s.noteRead none = s := by
  have h : (s.undefinedRead <|> none) = s.undefinedRead := by cases s.undefinedRead <;> rfl
  rw [State.noteRead, h]

/-! The bytes that the operations on other registers leave. -/

@[simp] theorem State.respond_byte (v : Word) (i : Fin 16) : (s.respond v).byte i = s.byte i := rfl
@[simp] theorem State.respond_byteDef (v : Word) (i : Fin 16) : (s.respond v).byteDef i = s.byteDef i := rfl
@[simp] theorem State.respondUndefined_byte (i : Fin 16) : (s.respondUndefined).byte i = s.byte i := rfl
@[simp] theorem State.respondUndefined_byteDef (i : Fin 16) : (s.respondUndefined).byteDef i = s.byteDef i := rfl
@[simp] theorem State.ret_byte (r : Result) (i : Fin 16) : (s.ret r).byte i = s.byte i := rfl
@[simp] theorem State.ret_byteDef (r : Result) (i : Fin 16) : (s.ret r).byteDef i = s.byteDef i := rfl
@[simp] theorem State.raise_byte (who : Raiser) (c : Cause) (i : Fin 16) : (s.raise who c).byte i = s.byte i := rfl
@[simp] theorem State.raise_byteDef (who : Raiser) (c : Cause) (i : Fin 16) : (s.raise who c).byteDef i = s.byteDef i := rfl
@[simp] theorem State.issue_byte (w : Word) (i : Fin 16) : (s.issue w).byte i = s.byte i := rfl
@[simp] theorem State.issue_byteDef (w : Word) (i : Fin 16) : (s.issue w).byteDef i = s.byteDef i := rfl
@[simp] theorem State.dropInstance_byte (i : Fin 16) : (s.dropInstance).byte i = s.byte i := rfl
@[simp] theorem State.dropInstance_byteDef (i : Fin 16) : (s.dropInstance).byteDef i = s.byteDef i := rfl
@[simp] theorem State.undefineTables_byte (i : Fin 16) : (s.undefineTables).byte i = s.byte i := rfl
@[simp] theorem State.undefineTables_byteDef (i : Fin 16) : (s.undefineTables).byteDef i = s.byteDef i := rfl
@[simp] theorem State.install_byte (c : Cfg) (mask : Wide) (emat : Vector Wide 7) (syn : Vector SynEntry 256) (i : Fin 16) : (s.install c mask emat syn).byte i = s.byte i := rfl
@[simp] theorem State.install_byteDef (c : Cfg) (mask : Wide) (emat : Vector Wide 7) (syn : Vector SynEntry 256) (i : Fin 16) : (s.install c mask emat syn).byteDef i = s.byteDef i := rfl

/-! Frames are reflexive. -/

@[simp] theorem State.SameBuffer.refl : s.SameBuffer s := fun _ => ⟨rfl, rfl⟩
@[simp] theorem State.SameInstance.refl : s.SameInstance s := ⟨rfl, rfl, rfl, rfl⟩
@[simp] theorem State.SameOutside.refl : s.SameOutside s := ⟨rfl, rfl, rfl⟩
@[simp] theorem State.SameBlock.refl : s.SameBlock s := ⟨.refl s, .refl s, rfl, rfl, rfl⟩

/-! What a raised fault leaves and latches. -/

theorem State.faultLatched_raise (who : Raiser) (c : Cause) : s.FaultLatched (s.raise who c) c :=
  ⟨rfl, rfl, rfl, rfl⟩

/-! The registers' zero values. -/

@[simp] theorem Status.zero_busy : Status.zero.busy = false := rfl
@[simp] theorem Status.zero_fault : Status.zero.fault = false := rfl
@[simp] theorem Status.zero_cause : Status.zero.cause = 0#4 := rfl
@[simp] theorem Cfg.zero_valid : Cfg.zero.valid = false := rfl

/-! What `State.begin` leaves. -/

theorem State.begin_of_not_rst (h : s.rst = false) :
    s.begin = { s with turns := s.turns.tail, rspRdata := none } := by
  simp [State.begin, h]

theorem State.begin_of_rst (h : s.rst = true) :
    s.begin = State.applyReset { s with turns := s.turns.tail, rspRdata := none } := by
  simp [State.begin, h]

end Sys2Proof.Machine
end

