-- ==== Sys2Proof/Laws/Buffer.lean ====
section
/-! SUPPORT. The buffer's laws: reading after writing, what a write leaves, and what an operand read can do. -/

namespace Sys2Proof.Machine

variable (s : State)

/-- A defined byte is the byte last written. -/
theorem State.byte_of_defined {i : Fin 16} (h : s.byteDef i = true) : s.byte i = s.buf[i] := by simp [State.byte, h]

/-- An undefined byte is the free value of the last reset's draw. -/
theorem State.byte_of_undefined {i : Fin 16} (h : s.byteDef i = false) :
    s.byte i = Config.unwrittenByte s.bufDraw i.val := by simp [State.byte, h]

@[simp] theorem State.byteDef_setByte_same (i : Fin 16) (b : Byte) : (s.setByte i b).byteDef i = true := by
  simp [State.byteDef]

theorem State.byteDef_setByte_of_ne {i j : Fin 16} (b : Byte) (h : j ≠ i) :
    (s.setByte i b).byteDef j = s.byteDef j := by
  have : i.val ≠ j.val := fun e => h (Fin.ext e.symm)
  simp [State.byteDef, this]

@[simp] theorem State.byte_setByte_same (i : Fin 16) (b : Byte) : (s.setByte i b).byte i = b := by
  simp [State.byte]

theorem State.byte_setByte_of_ne {i j : Fin 16} (b : Byte) (h : j ≠ i) : (s.setByte i b).byte j = s.byte j := by
  have : i.val ≠ j.val := fun e => h (Fin.ext e.symm)
  simp [State.byte, s.byteDef_setByte_of_ne b h, this]

theorem State.byteDef_bufWrite (l : Nat) (v : Wide) (i : Fin 16) :
    (s.bufWrite l v).byteDef i = if i.val < l then true else s.byteDef i := by
  simp [State.byteDef]

theorem State.byte_bufWrite (l : Nat) (v : Wide) (i : Fin 16) :
    (s.bufWrite l v).byte i = if i.val < l then v.extractLsb' (8 * (l - 1 - i.val)) 8 else s.byte i := by
  by_cases h : i.val < l <;> simp [State.byte, s.byteDef_bufWrite l v i, h]

/-- No byte of the operand is undefined exactly when all are defined. -/
theorem State.firstUndefined_eq_none (l : Nat) : s.firstUndefined l = none ↔ s.OperandDefined l := by
  simp [State.firstUndefined, State.OperandDefined, List.find?_eq_none]

/-- The byte an operand read stops at is an undefined byte of the operand. -/
theorem State.firstUndefined_eq_some {l : Nat} {i : Fin 16} (h : s.firstUndefined l = some i) :
    i.val < l ∧ s.byteDef i = false := by
  have := List.find?_some h
  simpa using this

/-- What an operand read records: nothing where every byte is defined, else an undefined byte of the operand, unless a read
before it has been recorded. -/
theorem State.readOperand_cases (l : Nat) :
    (s.OperandDefined l ∧ s.readOperand l = s) ∨
    ∃ i, i.val < l ∧ s.byteDef i = false ∧ s.readOperand l = s.noteRead (some i) := by
  cases h : s.firstUndefined l with
  | none => exact .inl ⟨(s.firstUndefined_eq_none l).1 h, by simp [h]⟩
  | some i =>
    obtain ⟨hi, hd⟩ := s.firstUndefined_eq_some h
    exact .inr ⟨i, hi, hd, by simp [h]⟩

/-- A buffer value depends on the bytes alone. -/
theorem State.valueOf_congr {t : State} {l k : Nat} (h : ∀ i, i < k → t.byteAt i = s.byteAt i) :
    t.valueOf l k = s.valueOf l k := by
  induction k with
  | zero => rfl
  | succ k ih => simp only [State.valueOf, ih fun i hi => h i (by omega), h k (by omega)]

/-- Bit `b` of a buffer value read up to byte `k`: bytes not read yet are 0 (20_memory R51). -/
theorem State.valueOf_getLsbD {l k b : Nat} (hk : k ≤ l) (hl : l ≤ 16) (hb : b < 8 * l) :
    (s.valueOf l k).getLsbD b =
      if l - 1 - b / 8 < k then (s.byteAt (l - 1 - b / 8)).getLsbD (b % 8) else false := by
  induction k with
  | zero => simp [State.valueOf]
  | succ k ih =>
    rw [State.valueOf, BitVec.getLsbD_or, ih (by omega), BitVec.getLsbD_shiftLeft, BitVec.getLsbD_setWidth]
    have wide : b < 128 := by omega
    by_cases h : l - 1 - b / 8 = k
    · have h1 : ¬l - 1 - b / 8 < k := by omega
      have h2 : l - 1 - b / 8 < k + 1 := by omega
      have h3 : ¬b < 8 * (l - 1 - k) := by omega
      have h4 : b - 8 * (l - 1 - k) = b % 8 := by omega
      have h5 : b % 8 < 128 := by omega
      rw [if_neg h1, if_pos h2, h4]
      simp [h, wide, h3, h5]
    · have h1 : (l - 1 - b / 8 < k + 1) ↔ (l - 1 - b / 8 < k) := by omega
      by_cases h2 : b < 8 * (l - 1 - k)
      · simp [h1, h2]
      · rw [BitVec.getLsbD_of_ge (s.byteAt k) (b - 8 * (l - 1 - k)) (by omega)]
        simp [h1]

end Sys2Proof.Machine
end

