-- ==== Sys2Proof/Laws/Legal.lean ====
section
/-! SUPPORT. What each shared operation writes is legal: STATUS after a fault, the RESULT of each outcome, the CFG of a
CONFIGURE. -/

namespace Sys2Proof.Machine

theorem Cause.code_fatal (c : Cause) : 8 ≤ c.code.toNat := by cases c <;> decide

theorem Status.zero_legal : Status.zero.Legal := by constructor <;> decide

theorem Result.zero_legal : Result.zero.Legal := by constructor <;> decide

theorem Cfg.zero_legal : Cfg.zero.Legal := by constructor <;> decide

/-- Raising a fault leaves a legal STATUS. -/
theorem Status.Legal.raise {s : State} (h : s.status.Legal) (who : Raiser) (c : Cause) : (s.raise who c).status.Legal := by
  refine ⟨by simp, by simp, fun _ => ?_⟩
  simp only [State.raise_status]
  split
  · exact c.code_fatal
  · rename_i hc
    cases hf : s.status.fault with
    | false => exact absurd (h.quiet hf) hc
    | true => exact h.fatal hf

/-- Ending a command leaves a legal STATUS. -/
theorem Status.Legal.ret {s : State} (h : s.status.Legal) (r : Result) : (s.ret r).status.Legal :=
  ⟨by simp, h.quiet, h.fatal⟩

theorem Result.faulted_legal (c : Cause) : (Result.faulted c).Legal := by
  cases c <;> constructor <;> decide +revert

theorem Result.doubleError_legal (x : Byte) : (Result.doubleError x).Legal :=
  ⟨by decide +revert, fun _ => rfl, fun h => absurd h (by decide +revert), fun _ => rfl, by decide +revert⟩

theorem Result.decoded_legal (corr : Bool) (pos synd : Byte) (h : corr = false → pos = 0#8) :
    (Result.decoded corr pos synd).Legal := by
  refine ⟨.inl rfl, fun hd => ?_, fun hf => ?_, h, by simp [Result.decoded, Result.zero]⟩
  · simp [Result.decoded, Result.zero, doubleErrorCode] at hd
  · simp [Result.decoded, Result.zero] at hf

theorem Result.parityOf_legal (c : Nat) (h : c ≤ 128) : (Result.parityOf c).Legal := by
  refine ⟨.inl rfl, fun hd => ?_, fun hf => ?_, fun _ => rfl, ?_⟩
  · simp [Result.parityOf, Result.zero, doubleErrorCode] at hd
  · simp [Result.parityOf, Result.zero] at hf
  · simp only [Result.parityOf, BitVec.toNat_ofNat, Nat.mod_eq_of_lt (show c < 2 ^ 8 by omega)]
    exact ⟨h, trivial⟩

/-- The number of check bits of a legal `N`. -/
theorem msel_bounds {n : Nat} (small : 1 ≤ n) (large : n ≤ 120) :
    2 ≤ msel n ∧ msel n ≤ 7 ∧ (n ≤ 57 → msel n ≤ 6) := by
  revert small
  revert n
  decide

/-- The CFG that CONFIGURE writes is legal. -/
theorem Cfg.of_legal {n : Nat} (na : Bool) (small : 1 ≤ n) (large : n ≤ 120) : (cfgOf n na).Legal := by
  obtain ⟨_, hm, hm'⟩ := msel_bounds small large
  refine ⟨fun _ => ?_, fun _ => ?_, fun _ => ?_, fun _ => ?_, fun _ => ?_, fun h => ?_⟩ <;>
    simp [cfgOf, Cfg.len, widthMode] at *
  · omega
  · rw [Nat.mod_eq_of_lt (by omega), Nat.mod_eq_of_lt (by omega)]
  · omega
  · omega
  · split <;> omega

end Sys2Proof.Machine
end

