-- ==== Sys2Proof/Laws/ParityMatrix.lean ====
section
/-! SUPPORT. The matrix builder and the parity-matrix product, bit by bit, and what filling the syndrome table does. -/

namespace Sys2Proof.Machine

/-- Bit `b` of a fold of column bits: the last column stands at bit 0, and what was there before is shifted up. -/
theorem foldl_columns_getLsbD (k : Nat) (cols : List Nat) (r : Wide) (b : Nat) (hb : b < 128) :
    (cols.foldl (fun (r : Wide) (c : Nat) => (r <<< 1) ||| (BitVec.ofBool (c.testBit k)).setWidth 128) r).getLsbD b =
      if b < cols.length then (cols.getD (cols.length - 1 - b) 0).testBit k else r.getLsbD (b - cols.length) := by
  induction cols generalizing r with
  | nil => simp
  | cons c cs ih =>
    rw [List.foldl_cons, ih]
    by_cases h : b < cs.length
    · have h1 : (c :: cs).length - 1 - b = (cs.length - 1 - b) + 1 := by simp; omega
      have h2 : b < (c :: cs).length := by simp; omega
      rw [if_pos h, if_pos h2, h1, List.getD_cons_succ]
    · rw [if_neg h, BitVec.getLsbD_or, BitVec.getLsbD_shiftLeft, BitVec.getLsbD_setWidth, BitVec.getLsbD_ofBool]
      by_cases h3 : b = cs.length
      · subst h3; simp
      · have h4 : ¬b < (c :: cs).length := by simp; omega
        have h5 : b - cs.length < 128 := by omega
        have h6 : ¬b - cs.length < 1 := by omega
        have h7 : ¬b - cs.length = 0 := by omega
        have h8 : b - cs.length - 1 = b - (c :: cs).length := by simp; omega
        simp only [h4, h5, h6, h7, h8]
        simp

/-- Bit `b` of a weight row is bit `k` of the column `b` places before the last (R113). -/
theorem weightRow_getLsbD (k : Nat) (cols : List Nat) (b : Nat) (hb : b < 128) :
    (weightRow k cols).getLsbD b = (decide (b < cols.length) && (cols.getD (cols.length - 1 - b) 0).testBit k) := by
  rw [weightRow, foldl_columns_getLsbD k cols _ b hb]
  by_cases h : b < cols.length <;> simp [h]

/-- Bit `b` of the row parities of the first `k` rows (R130). -/
theorem rowParities_getLsbD (emat : Vector Wide 7) (m : Nat) (v : Wide) (hm : m < 128) (k : Nat) (hk : k ≤ m) (b : Nat) :
    (rowParities emat m v k).getLsbD b =
      (decide (m - k < b ∧ b ≤ m) && parityBit (row emat (m - b) &&& v)) := by
  induction k with
  | zero => simp [rowParities]
  | succ k ih =>
    rw [rowParities, BitVec.getLsbD_or, ih (by omega), BitVec.getLsbD_shiftLeft, BitVec.getLsbD_setWidth,
      BitVec.getLsbD_ofBool]
    rcases Nat.lt_trichotomy b (m - k) with h | h | h
    · have h1 : ¬(m - (k + 1) < b ∧ b ≤ m) := by omega
      have h2 : ¬(m - k < b ∧ b ≤ m) := by omega
      simp [h1, h2, h]
    · subst h
      have h1 : m - (m - k) = k := by omega
      have h2 : m - k < 128 := by omega
      have h3 : m - (k + 1) < m - k := by omega
      simp [h1, h2, h3]
    · have h1 : (m - (k + 1) < b ∧ b ≤ m) ↔ (m - k < b ∧ b ≤ m) := by omega
      have h2 : ¬b - (m - k) = 0 := by omega
      simp [h1, h2]

/-- The parity of a masked exclusive or. -/
theorem parityBit_and_xor {w : Nat} (r a b : BitVec w) :
    parityBit (r &&& (a ^^^ b)) = (parityBit (r &&& a) ^^ parityBit (r &&& b)) := by
  have h : r &&& (a ^^^ b) = (r &&& a) ^^^ (r &&& b) := by
    ext j hj
    simp only [BitVec.getElem_and, BitVec.getElem_xor]
    cases r[j] <;> simp
  rw [h, parityBit_xor]

/-- The row parities of an exclusive or. -/
theorem rowParities_xor (emat : Vector Wide 7) (m : Nat) (a b : Wide) (hm : m < 128) (k : Nat) (hk : k ≤ m) :
    rowParities emat m (a ^^^ b) k = rowParities emat m a k ^^^ rowParities emat m b k := by
  apply BitVec.eq_of_getLsbD_eq
  intro i _
  simp only [BitVec.getLsbD_xor, rowParities_getLsbD _ _ _ hm _ hk, parityBit_and_xor]
  cases decide (m - k < i ∧ i ≤ m) <;> simp

theorem lookup_set_same (t : Vector SynEntry 256) (x : Nat) (entry : SynEntry) (hx : x < 256) :
    lookup (t.setIfInBounds x entry) x = entry := by
  simp [lookup, hx]

theorem lookup_set_of_ne (t : Vector SynEntry 256) {x y : Nat} (entry : SynEntry) (h : x ≠ y) :
    lookup (t.setIfInBounds x entry) y = lookup t y := by
  simp [lookup, Vector.getElem?_setIfInBounds_ne h]

@[simp] theorem lookup_empty (x : Nat) : lookup (Vector.replicate 256 SynEntry.zero) x = SynEntry.zero := by
  simp only [lookup, Vector.getElem?_replicate]
  split <;> rfl

/-- What filling the syndrome table does where no syndrome repeats and none is taken: the positions' entries are written and
every other entry stays (R117). -/
theorem fillSyn_of_distinct (emat : Vector Wide 7) (m : Nat) (es : List Nat) (t : Vector SynEntry 256)
    (small : ∀ e ∈ es, syndromeOf emat m e < 256) (free : ∀ e ∈ es, (lookup t (syndromeOf emat m e)).v = false)
    (distinct : (es.map (syndromeOf emat m)).Nodup) :
    ∃ u, fillSyn emat m es t = some u ∧
      (∀ e ∈ es, lookup u (syndromeOf emat m e) = ⟨true, BitVec.ofNat 7 e⟩) ∧
      ∀ x, (∀ e ∈ es, x ≠ syndromeOf emat m e) → lookup u x = lookup t x := by
  induction es generalizing t with
  | nil => exact ⟨t, rfl, by simp, fun _ _ => rfl⟩
  | cons e es ih =>
    rw [List.map_cons, List.nodup_cons] at distinct
    have apart : ∀ f ∈ es, syndromeOf emat m e ≠ syndromeOf emat m f := fun f hf h =>
      distinct.1 (h ▸ List.mem_map_of_mem hf)
    have hs := small e List.mem_cons_self
    obtain ⟨u, hu, written, others⟩ := ih (t.setIfInBounds (syndromeOf emat m e) ⟨true, BitVec.ofNat 7 e⟩)
      (fun f hf => small f (List.mem_cons_of_mem _ hf))
      (fun f hf => by rw [lookup_set_of_ne _ _ (apart f hf)]; exact free f (List.mem_cons_of_mem _ hf)) distinct.2
    refine ⟨u, ?_, ?_, ?_⟩
    · rw [fillSyn, free e List.mem_cons_self]; exact hu
    · intro f hf
      rcases List.mem_cons.1 hf with rfl | hf
      · rw [others _ apart, lookup_set_same _ _ _ hs]
      · exact written f hf
    · intro x hx
      rw [others x fun f hf => hx f (List.mem_cons_of_mem _ hf),
        lookup_set_of_ne _ _ (hx e List.mem_cons_self).symm]

/-- Where filling succeeds, the first position's entry was free and the rest of the positions fill the table with it. -/
theorem fillSyn_cons_some {emat : Vector Wide 7} {m e : Nat} {es : List Nat} {t u : Vector SynEntry 256}
    (h : fillSyn emat m (e :: es) t = some u) :
    (lookup t (syndromeOf emat m e)).v = false ∧
      fillSyn emat m es (t.setIfInBounds (syndromeOf emat m e) ⟨true, BitVec.ofNat 7 e⟩) = some u := by
  rw [fillSyn] at h
  split at h
  · cases h
  · rename_i hv
    exact ⟨by simpa using hv, h⟩

end Sys2Proof.Machine
end

