-- ==== Sys2Proof/Laws/PerInstr.lean ====
section
/-! SUPPORT. The family RowMatch: the encoding of every instruction matches its own row of the opcode table. -/

namespace Sys2Proof.Laws.RowMatch

/-- The form matches row `k` of the rows of its kind. -/
def hitsRow (k : Nat) : Encoded → Bool
  | .command w => (commandRows.map fun r => r.hits w).getD k false
  | .transaction t => (transactionRows.map fun r => r.hits t).getD k false

/-- The place of an instruction's row among the rows of its form (30_encoding R73, R76). -/
def rowOf : Instr → Nat
  | .configure _ _ => 0
  | .encode _ => 1
  | .decode _ => 2
  | .parity _ => 3
  | .wrbuf _ _ => 0
  | .rdbuf _ => 1
  | .wrcmd _ => 2
  | .rdstatus => 3
  | .rdresult => 4
  | .rdcfg => 5

/-- The instruction's encoding matches its own row. -/
def Statement (i : Instr) : Prop := hitsRow (rowOf i) (encode i) = true

/-- A word matches a row when its bits agree with the pattern under the mask. -/
theorem hits_of_bits {w : Nat} (r : Row w) (x : BitVec w)
    (h : ∀ k, k < w → (x.getLsbD k && r.mask.getLsbD k) = r.pattern.getLsbD k) : r.hits x = true := by
  simp only [Row.hits, beq_iff_eq]
  apply BitVec.eq_of_getLsbD_eq
  intro k hk
  rw [BitVec.getLsbD_and, h k hk]

theorem configure (n : Nat) (na : Bool) : Statement (.configure n na) := by
  refine hits_of_bits configureRow _ fun k hk => ?_
  interval_cases k <;> simp [cfgwWord, configureRow, place, placeBit]

theorem encode (len : Nat) : Statement (.encode len) := by
  refine hits_of_bits encodeRow _ fun k hk => ?_
  interval_cases k <;> simp [bufwWord, encodeRow, place]

theorem decode (len : Nat) : Statement (.decode len) := by
  refine hits_of_bits decodeRow _ fun k hk => ?_
  interval_cases k <;> simp [bufwWord, decodeRow, place]

theorem parity (len : Nat) : Statement (.parity len) := by
  refine hits_of_bits parityRow _ fun k hk => ?_
  interval_cases k <;> simp [bufwWord, parityRow, place]

theorem wrbuf (i : Fin 16) (wdata : Word) : Statement (.wrbuf i wdata) := by
  refine hits_of_bits wrbufRow _ fun k hk => ?_
  revert i
  interval_cases k <;> simp [transactionWord, wrbufRow, place, placeBit]
  decide

theorem rdbuf (i : Fin 16) : Statement (.rdbuf i) := by
  revert i
  unfold Statement
  decide

theorem wrcmd (w : Word) : Statement (.wrcmd w) := by
  refine hits_of_bits wrcmdRow _ fun k hk => ?_
  interval_cases k <;> simp [transactionWord, wrcmdRow, place, placeBit]

theorem rdstatus : Statement .rdstatus := by unfold Statement; decide

theorem rdresult : Statement .rdresult := by unfold Statement; decide

theorem rdcfg : Statement .rdcfg := by unfold Statement; decide

end Sys2Proof.Laws.RowMatch
end

