-- ==== Sys2Proof/Laws/Step.lean ====
section
/-! SUPPORT. What each shared operation, each agent's move and the step can do, said once. -/

namespace Sys2Proof.Machine

/-- The common checks of the writing transactions. -/
theorem State.hostWrite_cases (s effect : State) :
    (s.status.fault = true ∧ s.hostWrite effect = s) ∨
    (s.status.fault = false ∧ s.status.busy = true ∧ s.hostWrite effect = s.raise .host .hazard) ∨
    (s.status.fault = false ∧ s.status.busy = false ∧ s.hostWrite effect = effect) := by
  cases hf : s.status.fault <;> cases hb : s.status.busy <;> simp [State.hostWrite, hf, hb]

/-- What CONFIGURE can do: fail for a size or a collision, or install the instance. -/
theorem State.configure_cases (s : State) (n : Nat) (na : Bool) :
    ((n < 1 ∨ 120 < n) ∧ s.configure n na = s.configureFails .configSize) ∨
    (¬(n < 1 ∨ 120 < n) ∧ syndromeTable n = none ∧ s.configure n na = s.configureFails .configCollision) ∨
    (∃ syn, ¬(n < 1 ∨ 120 < n) ∧ syndromeTable n = some syn ∧
      s.configure n na = (s.install (cfgOf n na) (maskOf (msel n + 1)) (matrix n) syn).ret Result.zero) := by
  by_cases h : n < 1 ∨ 120 < n
  · exact .inl ⟨h, by rw [State.configure, if_pos h]⟩
  · cases ht : syndromeTable n with
    | none => exact .inr (.inl ⟨h, rfl, by rw [State.configure, if_neg h, ht]⟩)
    | some syn => exact .inr (.inr ⟨syn, h, rfl, by rw [State.configure, if_neg h, ht]⟩)

/-- What ENCODE does once its checks on the length have passed. -/
theorem State.encodeValue_cases (s : State) (l : Nat) (v : Wide) :
    (s.cfg.noassert = false ∧ s.cfg.precondition v = false ∧ s.encodeValue l v = s.raise .command .encodePrecond) ∨
    ((s.cfg.noassert = true ∨ s.cfg.precondition v = true) ∧
      s.encodeValue l v = (s.bufWrite l (v ||| s.pmp v)).ret Result.zero) := by
  cases hn : s.cfg.noassert <;> cases hp : s.cfg.precondition v <;> simp [State.encodeValue, hn, hp]

/-- The three outcomes of DECODE once its checks have passed. -/
theorem State.decodeValue_cases (s : State) (l : Nat) (v : Wide) :
    (s.pmp v = 0#128 ∧
      s.decodeValue l v = (s.bufWrite l (v &&& ~~~s.mask)).ret (Result.decoded false 0#8 0#8)) ∨
    (s.pmp v ≠ 0#128 ∧ (lookup s.syn (s.pmp v).toNat).v = true ∧
      s.decodeValue l v =
        (s.bufWrite l ((v ^^^ (1#128 <<< (lookup s.syn (s.pmp v).toNat).pos.toNat)) &&& ~~~s.mask)).ret
          (Result.decoded true ((lookup s.syn (s.pmp v).toNat).pos.setWidth 8) ((s.pmp v).setWidth 8))) ∨
    (s.pmp v ≠ 0#128 ∧ (lookup s.syn (s.pmp v).toNat).v = false ∧
      s.decodeValue l v = s.ret (Result.doubleError ((s.pmp v).setWidth 8))) := by
  by_cases h0 : s.pmp v = 0#128
  · exact .inl ⟨h0, by simp [State.decodeValue, h0]⟩
  · cases hv : (lookup s.syn (s.pmp v).toNat).v
    · exact .inr (.inr ⟨h0, rfl, by simp [State.decodeValue, h0, hv]⟩)
    · exact .inr (.inl ⟨h0, rfl, by simp [State.decodeValue, h0, hv]⟩)

/-- What ENCODE can do: fail for want of an instance or for its length, or work on the operand it has read. -/
theorem execEncode_cases (len : Nat) (s : State) :
    (s.cfg.valid = false ∧ execEncode len s = .next (s.raise .command .notConfigured)) ∨
    (s.cfg.valid = true ∧ len ≠ s.cfg.len ∧ execEncode len s = .next (s.raise .command .length)) ∨
    (s.cfg.valid = true ∧ len = s.cfg.len ∧
      execEncode len s = .next ((s.readOperand s.cfg.len).encodeValue s.cfg.len (s.bufRead s.cfg.len))) := by
  cases hv : s.cfg.valid <;> by_cases hl : len = s.cfg.len <;> simp [execEncode, hv, hl]

/-- What DECODE can do: fail for want of an instance or for its length, or work on the operand it has read. -/
theorem execDecode_cases (len : Nat) (s : State) :
    (s.cfg.valid = false ∧ execDecode len s = .next (s.raise .command .notConfigured)) ∨
    (s.cfg.valid = true ∧ len ≠ s.cfg.len ∧ execDecode len s = .next (s.raise .command .length)) ∨
    (s.cfg.valid = true ∧ len = s.cfg.len ∧
      execDecode len s = .next ((s.readOperand s.cfg.len).decodeValue s.cfg.len (s.bufRead s.cfg.len))) := by
  cases hv : s.cfg.valid <;> by_cases hl : len = s.cfg.len <;> simp [execDecode, hv, hl]

/-- What PARITY can do. -/
theorem execParity_cases (len : Nat) (s : State) :
    (16 < len ∧ execParity len s = .next (s.raise .command .length)) ∨
    (len ≤ 16 ∧
      execParity len s = .next ((s.readOperand len).ret (Result.parityOf (countBytes (s.bytes len))))) := by
  by_cases hl : 16 < len
  · exact .inl ⟨hl, by simp [execParity, hl]⟩
  · exact .inr ⟨by omega, by simp [execParity, hl]⟩

/-- What RDBUF can do. -/
theorem execRdbuf_cases (i : Fin 16) (s : State) :
    (s.status.busy = true ∧ execRdbuf i s = .next s.respondUndefined) ∨
    (s.status.busy = false ∧ execRdbuf i s = .next ((s.readByte i).respond ((s.byte i).setWidth 32))) := by
  cases hb : s.status.busy <;> simp [execRdbuf, hb]

/-- A read that is undefined while a command is pending. -/
theorem State.respondIdle_cases (s : State) (v : Word) :
    (s.status.busy = true ∧ s.respondIdle v = s.respondUndefined) ∨
    (s.status.busy = false ∧ s.respondIdle v = s.respond v) := by
  cases hb : s.status.busy <;> simp [State.respondIdle, hb]

/-- The completion step: nothing while idle, else the command in PEND or the fault of an illegal word. -/
theorem codecMove_cases (s : State) :
    (s.status.busy = false ∧ codecMove s = .next s) ∨
    (s.status.busy = true ∧ ∃ i, decodeCommand s.pend = .ok i ∧ codecMove s = exec i s) ∨
    (s.status.busy = true ∧ ∃ x, decodeCommand s.pend = .error x ∧
      codecMove s = .next (s.raise .command .illegalCommand)) := by
  cases hb : s.status.busy
  · exact .inl ⟨rfl, by simp [codecMove, hb]⟩
  · cases hd : decodeCommand s.pend with
    | ok i => exact .inr (.inl ⟨rfl, i, rfl, by simp [codecMove, hb, hd]⟩)
    | error x => exact .inr (.inr ⟨rfl, x, rfl, by simp [codecMove, hb, hd]⟩)

/-- A transaction decodes to an instruction or is an illegal access of its own direction. -/
theorem decodeTransaction_cases (t : BitVec 38) :
    (∃ i, decodeTransaction t = .ok i) ∨ decodeTransaction t = .error (.illegalAccess (!fieldWE t)) := by
  unfold decodeTransaction
  repeat' split
  all_goals simp

/-- One transaction: ignored in reset, an instruction, or an illegal access. -/
theorem transact_cases (t : BitVec 38) (s : State) :
    (s.rst = true ∧ transact t s = .next (s.ignoredInReset !fieldWE t)) ∨
    (s.rst = false ∧ ∃ i, decodeTransaction t = .ok i ∧ transact t s = exec i s) ∨
    (s.rst = false ∧ decodeTransaction t = .error (.illegalAccess (!fieldWE t)) ∧
      transact t s = .next (s.illegalAccess !fieldWE t)) := by
  cases hr : s.rst
  · rcases decodeTransaction_cases t with ⟨i, h⟩ | h
    · exact .inr (.inl ⟨rfl, i, h, by simp [transact, hr, h]⟩)
    · exact .inr (.inr ⟨rfl, h, by simp [transact, hr, h]⟩)
  · exact .inl ⟨rfl, by simp [transact, hr]⟩

/-- One step: the codec unit moves, or the host does nothing, or its next operation runs. -/
theorem step_cases (s : State) :
    (s.mover = .codec ∧ step s = codecMove s.begin) ∨
    (s.mover = .host ∧ s.begin.host = [] ∧ step s = .next s.begin) ∨
    (s.mover = .host ∧ ∃ op rest, s.begin.host = op :: rest ∧ step s = hostOp op { s.begin with host := rest }) := by
  cases hm : s.mover with
  | codec => exact .inl ⟨rfl, by simp [step, hm]⟩
  | host =>
    cases hh : s.begin.host with
    | nil => exact .inr (.inl ⟨rfl, rfl, by simp [step, hm, hostMove, hh]⟩)
    | cons op rest => exact .inr (.inr ⟨rfl, op, rest, rfl, by simp [step, hm, hostMove, hh]⟩)

/-- No instruction touches what lies outside the block: `rst`, the host's operations, the order of the agents. -/
theorem exec_outside {i : Instr} {s t : State} (h : exec i s = .next t) : s.SameOutside t := by
  cases i with
  | configure n na =>
    simp only [exec, execConfigure, Host.Outcome.next.injEq] at h
    subst h
    rcases s.configure_cases n na with ⟨-, h⟩ | ⟨-, -, h⟩ | ⟨syn, -, -, h⟩ <;>
      simp [h, State.configureFails, State.SameOutside]
  | encode len =>
    rcases execEncode_cases len s with ⟨-, h'⟩ | ⟨-, -, h'⟩ | ⟨-, -, h'⟩ <;> rw [exec, h'] at h <;> cases h
    · simp [State.SameOutside]
    · simp [State.SameOutside]
    · rcases (s.readOperand s.cfg.len).encodeValue_cases s.cfg.len (s.bufRead s.cfg.len) with ⟨-, -, h⟩ | ⟨-, h⟩ <;>
        rw [h] <;> simp [State.SameOutside]
  | decode len =>
    rcases execDecode_cases len s with ⟨-, h'⟩ | ⟨-, -, h'⟩ | ⟨-, -, h'⟩ <;> rw [exec, h'] at h <;> cases h
    · simp [State.SameOutside]
    · simp [State.SameOutside]
    · rcases (s.readOperand s.cfg.len).decodeValue_cases s.cfg.len (s.bufRead s.cfg.len) with
        ⟨-, h⟩ | ⟨-, -, h⟩ | ⟨-, -, h⟩ <;> rw [h] <;> simp [State.SameOutside]
  | parity len =>
    rcases execParity_cases len s with ⟨-, h'⟩ | ⟨-, h'⟩ <;> rw [exec, h'] at h <;> cases h <;>
      simp [State.SameOutside]
  | wrbuf k w =>
    simp only [exec, execWrbuf, Host.Outcome.next.injEq] at h
    subst h
    rcases s.hostWrite_cases (s.setByte k (w.setWidth 8)) with ⟨-, h⟩ | ⟨-, -, h⟩ | ⟨-, -, h⟩ <;>
      simp [h, State.SameOutside]
  | wrcmd w =>
    simp only [exec, execWrcmd, Host.Outcome.next.injEq] at h
    subst h
    rcases s.hostWrite_cases (s.issue w) with ⟨-, h⟩ | ⟨-, -, h⟩ | ⟨-, -, h⟩ <;> simp [h, State.SameOutside]
  | rdbuf k =>
    rcases execRdbuf_cases k s with ⟨-, h'⟩ | ⟨-, h'⟩ <;> rw [exec, h'] at h <;> cases h <;> simp [State.SameOutside]
  | rdstatus =>
    cases h
    simp [State.SameOutside]
  | rdresult =>
    simp only [exec, execRdresult, Host.Outcome.next.injEq] at h
    subst h
    rcases s.respondIdle_cases s.result.word with ⟨-, h⟩ | ⟨-, h⟩ <;> simp [h, State.SameOutside]
  | rdcfg =>
    simp only [exec, execRdcfg, Host.Outcome.next.injEq] at h
    subst h
    rcases s.respondIdle_cases s.cfg.word with ⟨-, h⟩ | ⟨-, h⟩ <;> simp [h, State.SameOutside]

@[simp] theorem State.begin_host (s : State) : s.begin.host = s.host := by
  cases h : s.rst <;> simp [State.begin, h]

@[simp] theorem State.begin_rst (s : State) : s.begin.rst = s.rst := by
  cases h : s.rst <;> simp [State.begin, h]

@[simp] theorem State.begin_turns (s : State) : s.begin.turns = s.turns.tail := by
  cases h : s.rst <;> simp [State.begin, h]

@[simp] theorem State.begin_rspRdata (s : State) : s.begin.rspRdata = none := by
  cases h : s.rst <;> simp [State.begin, h]

end Sys2Proof.Machine
end

