-- ==== Sys2Proof/Tests/Slice0.lean ====
section
/-! SUPPORT. Tests: expected values are the spec's own (95_test_vectors, 30_encoding R79), or worked out by hand from a rule;
and for each statement with hypotheses a state and operands that meet them. -/

-- One theorem at a time: many kernel evaluations at once exhaust a small machine's threads.
set_option Elab.async false

namespace Sys2Proof.Tests

open Sys2Proof.Machine

/-! ### Helpers: small states -/

/-- The reset state with the `l`-byte buffer value `v` written. -/
def loaded (l v : Nat) : State := State.reset.bufWrite l (BitVec.ofNat 128 v)

/-- The state with the codec instance for `n` and `na` in place. -/
def withInstance (n : Nat) (na : Bool) (s : State) : State :=
  s.install (cfgOf n na) (maskOf (msel n + 1)) (matrix n)
    ((syndromeTable n).getD (Vector.replicate 256 SynEntry.zero))

/-- The reset state with the command word `w` pending. -/
def pending (w : Word) : State := State.reset.issue w

/-- The state with FAULT latched for `c`. -/
def faulted (c : Cause) : State := State.reset.raise .command c

/-- The outcome is a next state that satisfies `p`. -/
def nextIs (o : Outcome) (p : State → Bool) : Bool :=
  match o with
  | .next t => p t
  | .fault _ => false
  | .refused _ => false

/-! ### WellFormed: an ill-formed term for each check (30_encoding R77) -/

theorem test_wf_refuses_configure_128 : Instr.wf (.configure 128 false) = false := by decide
theorem test_wf_refuses_encode_32 : Instr.wf (.encode 32) = false := by decide
theorem test_wf_refuses_decode_32 : Instr.wf (.decode 32) = false := by decide
theorem test_wf_refuses_parity_32 : Instr.wf (.parity 32) = false := by decide
theorem test_wf_takes_configure_127 : Instr.wf (.configure 127 true) = true := by decide

/-! ### Decoding: a word of every constructor, written from the field tables of R70 and R76 -/

/-- `{16'b0, NA = 1, N = 4 (0000100), 4'b0, OP = 0001}`. -/
theorem test_decode_configure :
    decodeCommand 0b0000000000000000_1_0000100_0000_0001#32 = .ok (.configure 4 true) := by decide
/-- `{19'b0, LEN = 8 (01000), 4'b0, OP = 0010}`. -/
theorem test_decode_encode : decodeCommand 0b0000000000000000000_01000_0000_0010#32 = .ok (.encode 8) := by decide
/-- `{19'b0, LEN = 16 (10000), 4'b0, OP = 0011}`. -/
theorem test_decode_decode : decodeCommand 0b0000000000000000000_10000_0000_0011#32 = .ok (.decode 16) := by decide
/-- `{19'b0, LEN = 31 (11111), 4'b0, OP = 0100}`. -/
theorem test_decode_parity : decodeCommand 0b0000000000000000000_11111_0000_0100#32 = .ok (.parity 31) := by decide
/-- `{WE = 1, ADDR = 15 (01111), WDATA}`. -/
theorem test_decode_wrbuf :
    decodeTransaction 0b1_01111_00000000000000000000000110100101#38 = .ok (.wrbuf 15 0x1A5#32) := by decide
/-- `{WE = 0, ADDR = 7 (00111), WDATA ignored}`. -/
theorem test_decode_rdbuf :
    decodeTransaction 0b0_00111_11111111111111111111111111111111#38 = .ok (.rdbuf 7) := by decide
/-- `{WE = 1, ADDR = 16 (10000), WDATA}`. -/
theorem test_decode_wrcmd :
    decodeTransaction 0b1_10000_00000000000000000011100100000001#38 = .ok (.wrcmd 0x3901#32) := by decide
/-- `{WE = 0, ADDR = 17 (10001), WDATA ignored}`. -/
theorem test_decode_rdstatus :
    decodeTransaction 0b0_10001_00000000000000000000000000000000#38 = .ok .rdstatus := by decide
/-- `{WE = 0, ADDR = 18 (10010), WDATA ignored}`. -/
theorem test_decode_rdresult :
    decodeTransaction 0b0_10010_00000000000000000000000000000001#38 = .ok .rdresult := by decide
/-- `{WE = 0, ADDR = 19 (10011), WDATA ignored}`. -/
theorem test_decode_rdcfg :
    decodeTransaction 0b0_10011_00000000000000000000000000000000#38 = .ok .rdcfg := by decide

/-- L2.2, L2.5: a reserved bit, a reserved opcode. -/
theorem test_decode_refuses_commands :
    decodeCommand 0x00010401#32 = .error .illegalCommand ∧ decodeCommand 0x00000411#32 = .error .illegalCommand ∧
    decodeCommand 0x00000005#32 = .error .illegalCommand ∧ decodeCommand 0x00000000#32 = .error .illegalCommand ∧
    decodeCommand 0x00002004#32 = .error .illegalCommand := by decide

/-- L2.5: a read of CMD, writes of ADDR 20 and 17, a read of ADDR 31. -/
theorem test_decode_refuses_transactions :
    decodeTransaction 0x1000000000#38 = .error (.illegalAccess true) ∧
    decodeTransaction 0x3400000000#38 = .error (.illegalAccess false) ∧
    decodeTransaction 0x3100000000#38 = .error (.illegalAccess false) ∧
    decodeTransaction 0x1F00000000#38 = .error (.illegalAccess true) := by decide

theorem test_decode_table_word : decodeTableWord 32 0x00000401 = some (.configure 4 false) ∧
    decodeTableWord 40 0x2400000105 = some (.wrbuf 4 0x105#32) ∧ decodeTableWord 40 (2 ^ 38) = none := by decide

/-! ### Instructions (95_test_vectors) -/

/-- L2.2: CONFIGURE 4. -/
theorem test_configure_4 : nextIs (step (State.reset.withFetchWord 32 0x00000401)) (fun t =>
    t.cfg.word == 0x00340401#32 && t.mask == 0xF#128 && t.status.word == 0#32 && t.pend == 0#32 &&
      t.emat.toList == [0xD8#128, 0xB4#128, 0x72#128, 0#128, 0#128, 0#128, 0#128]) = true := by decide +kernel

/-- L2.2: CONFIGURE 121 faults. -/
theorem test_configure_121 : nextIs (step (State.reset.withFetchWord 32 0x00007901)) (fun t =>
    t.status.word == 0x92#32 && t.result.word == 0x9#32 && t.cfg.word == 0#32 && t.mask == 0#128) = true := by
  decide +kernel

/-- L2.3: N = 4, payload 1011. -/
theorem test_encode_n4 : nextIs (exec (.encode 8) (withInstance 4 false (loaded 8 0xB0))) (fun t =>
    t.bufRead 8 == 0xB4#128 && t.result.word == 0#32) = true := by decide +kernel

/-- L2.3: an ENCODE before CONFIGURE, with a wrong length too. -/
theorem test_encode_unconfigured : nextIs (step (State.reset.withFetchWord 32 0x00001002)) (fun t =>
    t.status.word == 0xB2#32 && t.result.word == 0xB#32) = true := by decide +kernel

/-- L2.4: N = 4, bit 6 flipped. -/
theorem test_decode_n4_single : nextIs (exec (.decode 8) (withInstance 4 false (loaded 8 0xF4))) (fun t =>
    t.bufRead 8 == 0xB0#128 && t.result.word == 0x000B0610#32) = true := by decide +kernel

/-- L2.4: N = 4, bits 40 and 3 flipped. -/
theorem test_decode_n4_double : nextIs (exec (.decode 8) (withInstance 4 false (loaded 8 0x100000000BC))) (fun t =>
    t.bufRead 8 == 0x100000000BC#128 && t.result.word == 0x00090001#32 && !t.status.fault) = true := by decide +kernel

/-- L2.1: `05 FF 80`. -/
theorem test_parity_3 : nextIs (exec (.parity 3) (loaded 8 0x05FF800000000000)) (fun t =>
    t.result.word == 0x0B000020#32) = true := by decide +kernel

/-- L2.1: sixteen bytes FF. -/
theorem test_parity_16 : nextIs (exec (.parity 16) (loaded 16 (2 ^ 128 - 1))) (fun t =>
    t.result.word == 0x80000000#32) = true := by decide +kernel

/-- L2.5: WDATA bits 31:8 are ignored. -/
theorem test_wrbuf : nextIs (step (State.reset.withFetchWord 40 0x2400000105)) (fun t =>
    t.byte 4 == 5#8 && t.byteDef 4 && !t.byteDef 5) = true := by decide +kernel

/-- L2.5: a WRBUF while busy. -/
theorem test_wrbuf_hazard : nextIs (exec (.wrbuf 0 1#32) (pending 0x401#32)) (fun t =>
    t.status.word == 0xF2#32 && t.pend == 0#32 && !t.byteDef 0) = true := by decide +kernel

/-- 42_encoder R134's example: byte 7. -/
theorem test_rdbuf : nextIs (exec (.rdbuf 7) (loaded 8 0x0000000005000021)) (fun t =>
    t.rspRdata == some 0x21#32) = true := by decide +kernel

/-- L2.5: a byte that nothing has written: some value, STATUS and RESULT 0, and the model's fault is recorded. -/
theorem test_rdbuf_undefined : nextIs (step (State.reset.withFetchWord 40 0x0400000000)) (fun t =>
    t.rspRdata.isSome && t.undefinedRead == some 4 && t.status.word == 0#32 && t.result.word == 0#32) = true := by
  decide +kernel

/-- L2.1: PARITY 1 with `BUF[0]` never written: the model's fault is recorded, and the command ends. -/
theorem test_parity_undefined : nextIs (exec (.parity 1) (pending 0x104#32)) (fun t =>
    t.undefinedRead == some 0 && t.status.word == 0#32 && t.pend == 0#32) = true := by decide +kernel

theorem test_wrcmd : nextIs (step (State.reset.withFetchWord 40 0x3000003901)) (fun t =>
    t.status.word == 1#32 && t.pend == 0x3901#32) = true := by decide +kernel

/-- L3 P3: ignored after a fault. -/
theorem test_wrcmd_after_fault : nextIs (exec (.wrcmd 0x401#32) (faulted .notConfigured)) (fun t =>
    t.status.word == 0xB2#32 && t.pend == 0#32) = true := by decide +kernel

/-- L2.5: RDSTATUS while busy. -/
theorem test_rdstatus_busy : nextIs (exec .rdstatus (pending 0x401#32)) (fun t => t.rspRdata == some 1#32) = true := by
  decide +kernel

/-- L3 P3: RDRESULT after the NOT_CONFIGURED fault. -/
theorem test_rdresult : nextIs (exec .rdresult (faulted .notConfigured)) (fun t =>
    t.rspRdata == some 0xB#32) = true := by decide +kernel

/-- L1.2: CFG of N = 120. -/
theorem test_rdcfg : nextIs (exec .rdcfg (withInstance 120 false State.reset)) (fun t =>
    t.rspRdata == some 0x00787803#32) = true := by decide +kernel

/-- L2.5: illegal accesses from reset. -/
theorem test_illegal_read : nextIs (transact 0x1000000000#38 State.reset) (fun t =>
    t.status.word == 0xE2#32 && t.rspRdata == some 0#32 && t.result.word == 0#32) = true := by decide +kernel

/-- L2.5: bit 13 set in a PARITY word, at completion. -/
theorem test_illegal_command : nextIs (codecMove (pending 0x2004#32)) (fun t =>
    t.status.word == 0x82#32 && t.result.word == 8#32) = true := by decide +kernel

/-- 70_reset R190: a transaction presented while `rst = 1`. -/
theorem test_reset_ignores : nextIs (step { State.reset with rst := true, host := [.tx 0x1300000000#38] }) (fun t =>
    t.rspRdata == some 0#32 && t.rst && t.host == []) = true := by decide +kernel

/-- 30_encoding R78: a line of each pseudo-instruction. -/
theorem test_assemble : assemble [.reset, .loadbuf [1, 255], .check] =
    some [.assertReset, .releaseReset, .tx 0x2000000001#38, .tx 0x21000000FF#38, .wait, .tx 0x1200000000#38] := by decide

/-- 30_encoding R77: a line that does not fit its field. -/
theorem test_assemble_refuses : assemble [.rdstatus, .wrbuf 4 0x105] = none := by decide

/-! ### Witnesses: the hypotheses of the statements can be met -/

theorem table_1 : (syndromeTable 1).isSome = true := by decide +kernel
theorem table_120 : (syndromeTable 120).isSome = true := by decide +kernel

theorem withInstance_configured (n : Nat) (na : Bool) (s : State) (h1 : 1 ≤ n) (h2 : n ≤ 120)
    (h : (syndromeTable n).isSome = true) : (withInstance n na s).Configured n na := by
  refine ⟨h1, h2, rfl, rfl, rfl, ?_⟩
  obtain ⟨t, ht⟩ := Option.isSome_iff_exists.1 h
  simp [withInstance, ht]

theorem loaded_defined (l v : Nat) : (loaded l v).OperandDefined l := fun i hi => by
  simp [loaded, State.byteDef_bufWrite, hi]

theorem witness_DecodeEncodeRoundTrip :
    Instr.wf (.configure 127 true) = true ∧ Instr.wf (.encode 31) = true ∧ Instr.wf (.parity 0) = true := by decide

theorem witness_DecodedFormsAreCanonical :
    decode (.transaction 0x1300000001#38) = .ok .rdcfg ∧ decode (.command 0x0000FF01#32) = .ok (.configure 127 true) := by
  decide

theorem witness_CommandWordDecoding :
    0x0000FF01#32 &&& 0xFFFF00FF#32 = 0x00000001#32 ∧ 0x00001F02#32 &&& 0xFFFFE0FF#32 = 0x00000002#32 ∧
    0x00001F03#32 &&& 0xFFFFE0FF#32 = 0x00000003#32 ∧ 0x00001F04#32 &&& 0xFFFFE0FF#32 = 0x00000004#32 ∧
    (∀ r ∈ commandRows, r.hits 0x00002004#32 = false) ∧ (pending 0x00002004#32).status.busy = true ∧
    (pending 0x00002004#32).pend = 0x00002004#32 := by decide

theorem witness_IllegalCommandWords :
    decodeCommand 0x00010001#32 = .error .illegalCommand ∧ decodeCommand 0x00000011#32 = .error .illegalCommand ∧
    decodeCommand 0x0000000F#32 = .error .illegalCommand ∧ (pending 0x00000011#32).status.busy = true ∧
    (pending 0x00000011#32).pend = 0x00000011#32 := by decide

/-- The addresses where the clauses meet: 0, 15, 16, 17, 18, 19, 20 and 31, written and read. -/
theorem witness_TransactionDecoding :
    ((transactionWord true 15#5 9#32).getLsbD 37 = true ∧ ((transactionWord true 15#5 9#32).extractLsb' 32 5).toNat = 15) ∧
    ((transactionWord false 0#5 0#32).getLsbD 37 = false ∧ ((transactionWord false 0#5 0#32).extractLsb' 32 5).toNat = 0) ∧
    ((transactionWord true 16#5 0#32).extractLsb' 32 5).toNat = 16 ∧
    ((transactionWord true 17#5 0#32).extractLsb' 32 5).toNat = 17 ∧
    ((transactionWord false 16#5 0#32).extractLsb' 32 5).toNat = 16 ∧
    ((transactionWord false 17#5 0#32).extractLsb' 32 5).toNat = 17 ∧
    ((transactionWord false 18#5 0#32).extractLsb' 32 5).toNat = 18 ∧
    ((transactionWord false 19#5 0#32).extractLsb' 32 5).toNat = 19 ∧
    ((transactionWord false 20#5 0#32).extractLsb' 32 5).toNat = 20 ∧
    ((transactionWord false 31#5 0#32).extractLsb' 32 5).toNat = 31 := by decide

theorem witness_AssemblerLines :
    assembleLine (.wrbuf 15 255) = some [.tx 0x2F000000FF#38] ∧ assembleLine (.wrbuf 16 0) = none ∧
    assembleLine (.wrbuf 0 256) = none ∧ assembleLine (.rdbuf 16) = none ∧ assembleLine (.configure 128 false) = none ∧
    assembleLine (.configure 127 true) = some [.tx 0x300000FF01#38] ∧ assembleLine (.parity 32) = none := by decide

theorem witness_PseudoInstructions : 1 ≤ [255].length ∧ [255].length ≤ 16 ∧ (∀ b ∈ [255], b ≤ 255) ∧
    State.reset.rst = false ∧ (pending 0x401#32).rst = false ∧ (pending 0x401#32).status.busy = true ∧
    State.HostNext { State.reset with rst := true, host := [.releaseReset, .wait] } .releaseReset [.wait] ∧
    State.HostNext { State.reset with host := [.releaseReset] } .releaseReset [] := by
  unfold State.HostNext
  decide

theorem witness_UndefinedByteReads :
    State.reset.status.fault = false ∧ State.reset.status.busy = false ∧ State.reset.byteDef 15 = false ∧
    State.reset.undefinedRead = none ∧ (loaded 8 5).OperandDefined 8 ∧ ¬(loaded 8 5).OperandDefined 9 ∧
    ({ State.reset with undefinedRead := some 3 } : State).undefinedRead ≠ none ∧
    ¬State.reset.OperandDefined 16 ∧ (withInstance 1 false State.reset).cfg.valid = true ∧
    ¬(withInstance 1 false State.reset).OperandDefined (withInstance 1 false State.reset).cfg.len := by
  unfold State.OperandDefined
  decide

theorem witness_ResetValuesAndUnreachableTables : State.reset.cfg.valid = false := by decide

theorem witness_ResetFromAnyState :
    State.HostNext { State.reset with host := [.assertReset] } .assertReset [] ∧
    ({ State.reset with rst := true } : State).rst = true ∧
    State.HostNext { State.reset with rst := true, host := [.tx 0#38] } (.tx 0#38) [] ∧
    (faulted .length).status.fault = true ∧
    nextIs (step { faulted .length with rst := true }) (fun t => !t.status.fault) = true := by
  unfold State.HostNext
  decide

/-- A configured block with a buffer and an ENCODE pending meets the invariant. -/
theorem witness_InvariantPreserved : ((withInstance 1 false (loaded 8 8)).issue 0x802#32).Inv := by
  have c : (withInstance 1 false (loaded 8 8)).Configured 1 false :=
    withInstance_configured 1 false _ (by decide) (by decide) table_1
  have n : (cfgOf 1 false).n.toNat = 1 := by decide
  have cs : (cfgOf 1 false).cs.toNat = msel 1 + 1 := by decide
  constructor
  · constructor <;> decide
  · exact Result.zero_legal
  · exact Cfg.of_legal false c.small c.large
  · intro h; exact absurd h (by decide)
  · intro h; exact absurd h (by decide)
  · intro _
    constructor <;> simp only [State.issue_mask, State.issue_emat, State.issue_syn, State.issue_cfg, c.cfg, n, cs]
    · exact c.mask
    · exact c.emat
    · exact c.syn
  · intro h; exact absurd h (by decide)

/-- It steps, to the state with the codeword. -/
theorem witness_InvariantPreserved_step : nextIs (step ((withInstance 1 false (loaded 8 8)).issue 0x802#32)) (fun t =>
    t.bufRead 8 == 0xF#128) = true := by decide +kernel

/-- A block held in reset meets the invariant. -/
theorem witness_InvariantPreserved_held : ({ State.reset with rst := true } : State).Inv :=
  ⟨Status.zero_legal, Result.zero_legal, Cfg.zero_legal, fun _ => rfl, fun _ => rfl, fun h => absurd h (by decide),
    fun _ => by unfold State.AtReset; decide⟩

theorem witness_InstanceImmutable : ∃ t, step ((withInstance 1 false State.reset).withCommandWord 0x001#32) = .next t ∧
    ¬((withInstance 1 false State.reset).withCommandWord 0x001#32).SameInstance t := by
  refine ⟨_, rfl, fun h => ?_⟩
  have := congrArg Cfg.valid h.1
  revert this
  decide

theorem witness_BufferWriteInvertsRead : (0xFFFFFFFFFFFFFFFF#128).toNat < 2 ^ (8 * 8) := by decide

theorem witness_OnlyTheOperandMatters :
    (Instr.encode 8 = .encode 8 ∧ 8 = if (withInstance 1 false State.reset).cfg.wm then 16 else 8) ∧
    (Instr.decode 16 = .decode 16 ∧ 16 = if (withInstance 120 false State.reset).cfg.wm then 16 else 8) ∧
    (∀ j : Fin 16, j.val < 8 → (State.reset.bufWrite 16 0x500#128).byte j = (loaded 8 0).byte j ∧
      (State.reset.bufWrite 16 0x500#128).byteDef j = (loaded 8 0).byteDef j) ∧
    (State.reset.bufWrite 16 0x500#128).byte 14 ≠ 0#8 ∧ (loaded 8 0).byteDef 14 = false := by decide +kernel

theorem witness_ParityCommand : 0 ≤ 16 ∧ 16 ≤ 16 ∧ 16 < 17 ∧ 31 > 16 := by decide

theorem witness_sizes : 1 ≤ 1 ∧ 1 ≤ 120 ∧ 120 ≤ 120 ∧ msel 1 - 1 < msel 1 ∧ msel 120 - 1 < msel 120 ∧ 127 ≤ 127 := by decide

/-- A last payload position of the smallest and of the largest size. -/
theorem witness_SyndromeClosedForm :
    msel 1 + 1 ≤ 1 + msel 1 ∧ 1 + msel 1 ≤ msel 1 + 1 + 1 - 1 ∧ 120 + msel 120 ≤ msel 120 + 1 + 120 - 1 := by decide

theorem witness_ConfigureCommand : (1 ≤ 120 ∧ 120 ≤ 120) ∧ (0 = 0 ∨ 120 < 0) ∧ (121 = 0 ∨ 120 < 121) := by decide

theorem witness_ProductBits : 6 < 7 ∧ 7 ≤ 15 ∧ 7 < 8 := by decide

/-- The four cases of ENCODE: not configured, a wrong length, a set check bit, and a payload; and a set check bit under
NOASSERT. -/
theorem witness_EncodeCommand :
    (loaded 8 0).cfg.valid = false ∧ (withInstance 1 false (loaded 8 8)).cfg.valid = true ∧
    (withInstance 1 false (loaded 8 8)).OperandDefined 8 ∧ (withInstance 1 false (loaded 8 8)).cfg.noassert = false ∧
    (withInstance 1 false (loaded 8 9)).bufRead 8 &&& ~~~(cfgOf 1 false).payload ≠ 0#128 ∧
    (withInstance 1 false (loaded 8 8)).bufRead 8 &&& ~~~(cfgOf 1 false).payload = 0#128 ∧
    (withInstance 1 true (loaded 8 9)).cfg.noassert = true := by
  refine ⟨by decide, by decide, loaded_defined 8 8, by decide, by decide +kernel, by decide +kernel, by decide⟩

theorem witness_CodewordProperties : 0xFFFFFFFFFFFFFFFFFFFFFFFFFFFFFF00#128 &&& ~~~(cfgOf 120 false).payload = 0#128 ∧
    8#128 &&& ~~~(cfgOf 1 false).payload = 0#128 := by decide +kernel

/-- The three outcomes of DECODE for N = 1: a codeword, a single flip, a double flip (95_test_vectors L2.3). -/
theorem witness_DecodeCommand :
    (withInstance 1 false (loaded 8 0xF)).OperandDefined 8 ∧
    pmp (matrix 1) (msel 1) 0xF#128 = 0#128 ∧
    (pmp (matrix 1) (msel 1) 0xB#128 ≠ 0#128 ∧
      (lookup (withInstance 1 false State.reset).syn (pmp (matrix 1) (msel 1) 0xB#128).toNat).v = true) ∧
    (pmp (matrix 1) (msel 1) 0xA#128 ≠ 0#128 ∧
      (lookup (withInstance 1 false State.reset).syn (pmp (matrix 1) (msel 1) 0xA#128).toNat).v = false) := by
  refine ⟨loaded_defined 8 0xF, by decide +kernel, by decide +kernel, by decide +kernel⟩

theorem witness_EncodeDecodeRoundTrip :
    (withInstance 1 false (loaded 8 8)).Configured 1 false ∧ (withInstance 1 false (loaded 8 8)).OperandDefined 8 ∧
    (withInstance 1 false (loaded 8 8)).bufRead 8 &&& ~~~(cfgOf 1 false).payload = 0#128 ∧
    (withInstance 120 true (loaded 16 0x100)).Configured 120 true ∧
    (withInstance 120 true (loaded 16 0x100)).OperandDefined 16 ∧
    (withInstance 120 true (loaded 16 0x100)).bufRead 16 &&& ~~~(cfgOf 120 true).payload = 0#128 :=
  ⟨withInstance_configured 1 false _ (by decide) (by decide) table_1, loaded_defined 8 8, by decide +kernel,
    withInstance_configured 120 true _ (by decide) (by decide) table_120, loaded_defined 16 0x100, by decide +kernel⟩

/-- N = 1 with the payload bit flipped, and N = 120 with the top bit of the all-zero codeword flipped. -/
theorem witness_SingleErrorCorrection :
    (withInstance 1 false (loaded 8 7)).Configured 1 false ∧ 3 ≤ 1 + msel 1 ∧
    (withInstance 1 false (loaded 8 7)).bufRead 8 =
      (8#128 ||| (withInstance 1 false (loaded 8 7)).pmp 8#128) ^^^ (1#128 <<< 3) ∧
    (withInstance 120 false (loaded 16 (2 ^ 127))).Configured 120 false ∧ 127 ≤ 120 + msel 120 ∧
    (withInstance 120 false (loaded 16 (2 ^ 127))).bufRead 16 =
      (0#128 ||| (withInstance 120 false (loaded 16 (2 ^ 127))).pmp 0#128) ^^^ (1#128 <<< 127) :=
  ⟨withInstance_configured 1 false _ (by decide) (by decide) table_1, by decide, by decide +kernel,
    withInstance_configured 120 false _ (by decide) (by decide) table_120, by decide, by decide +kernel⟩

theorem witness_DoubleErrorDetection :
    (withInstance 1 false (loaded 8 6)).Configured 1 false ∧ 3 ≤ 1 + msel 1 ∧ 0 ≤ 1 + msel 1 ∧ 3 ≠ 0 ∧
    (withInstance 1 false (loaded 8 6)).bufRead 8 =
      (8#128 ||| (withInstance 1 false (loaded 8 6)).pmp 8#128) ^^^ (1#128 <<< 3) ^^^ (1#128 <<< 0) :=
  ⟨withInstance_configured 1 false _ (by decide) (by decide) table_1, by decide, by decide, by decide, by decide +kernel⟩

/-- N = 1: the lowest and the highest high bit, alone, with position 0, and with position 3. -/
theorem witness_HighBitErrors :
    (withInstance 1 false (loaded 8 0x1F)).Configured 1 false ∧ msel 1 + 1 + 1 ≤ 4 ∧ 63 < 8 * (cfgOf 1 false).len ∧
    (withInstance 1 false (loaded 8 0x1F)).bufRead 8 =
      (8#128 ||| (withInstance 1 false (loaded 8 0x1F)).pmp 8#128) ^^^ (1#128 <<< 4) ∧
    (withInstance 1 false (loaded 8 0x1E)).bufRead 8 =
      (8#128 ||| (withInstance 1 false (loaded 8 0x1E)).pmp 8#128) ^^^ (1#128 <<< 4) ^^^ 1#128 ∧
    (withInstance 1 false (loaded 8 0x8000000000000007)).bufRead 8 =
      (8#128 ||| (withInstance 1 false (loaded 8 7)).pmp 8#128) ^^^ (1#128 <<< 63) ^^^ (1#128 <<< 3) :=
  ⟨withInstance_configured 1 false _ (by decide) (by decide) table_1, by decide, by decide, by decide +kernel,
    by decide +kernel, by decide +kernel⟩

/-- Idle, faulted and busy states, for the transactions' clauses, the busy window and the completion step. -/
theorem witness_transactions :
    (State.reset.status.fault = false ∧ State.reset.status.busy = false) ∧ (faulted .length).status.fault = true ∧
    ((pending 5#32).status.fault = false ∧ (pending 5#32).status.busy = true) ∧
    ((loaded 8 5).status.busy = false ∧ (loaded 8 5).byteDef 7 = true ∧ (loaded 8 5).byteDef 8 = false) := by decide

theorem witness_ReadsAreIdempotent : State.reset.status.busy = false ∧ State.reset.byteDef 3 = false := by decide

theorem witness_BusyReadsDrawApart : (pending 0x401#32).status.busy = true := by decide

theorem witness_BusyWindow : (pending 1#32).status.busy = true ∧ (pending 1#32).status.fault = false ∧
    (pending 1#32).rst = false ∧ decodeTransaction 0x1000000000#38 = .error (.illegalAccess true) := by decide

theorem witness_IllegalTransactions : State.reset.rst = false ∧ (faulted .hazard).status.fault = true ∧
    (0x3100000000#38).getLsbD 37 = true ∧ ((0x3100000000#38).extractLsb' 32 5).toNat = 17 ∧
    (0x1000000000#38).getLsbD 37 = false ∧ ((0x1000000000#38).extractLsb' 32 5).toNat = 16 ∧
    ((0x1400000000#38).extractLsb' 32 5).toNat = 20 := by decide

/-- A faulted block, and a step of it that is a reset. -/
theorem witness_WritesIgnoredAfterFault :
    (faulted .length).status.fault = true ∧ (faulted .length).status.busy = false ∧ (faulted .length).rst = false ∧
    (0x2000000000#38).getLsbD 37 = true ∧ ((loaded 8 0).raise .host .hazard).byteDef 0 = true ∧
    nextIs (step { faulted .length with host := [.assertReset] }) (fun t => !t.status.fault) = true := by decide +kernel

theorem witness_CompletionStep : State.reset.status.busy = false ∧ (pending 0x401#32).status.busy = true ∧
    decodeCommand (pending 0x401#32).pend = .ok (.configure 4 false) ∧
    decodeCommand (pending 5#32).pend = .error .illegalCommand := by decide

theorem witness_CompletionEventually : ({ pending 5#32 with turns := [.host, .host] } : State).status.busy = true := by decide

theorem witness_FaultsArePrecise : nextIs (exec (.encode 8) State.reset) (fun t => t.status.fault) = true ∧
    State.reset.status.fault = false := by decide +kernel

/-- The pending words of the clauses of the priority rule. -/
theorem witness_PriorityOfChecks :
    decodeCommand 0x10401#32 = .error .illegalCommand ∧ decodeCommand 0x001#32 = .ok (.configure 0 false) ∧
    decodeCommand 0x7901#32 = .ok (.configure 121 false) ∧ decodeCommand 0x7801#32 = .ok (.configure 120 false) ∧ decodeCommand 0x1002#32 = .ok (.encode 16) ∧
    decodeCommand 0x803#32 = .ok (.decode 8) ∧ decodeCommand 0x1104#32 = .ok (.parity 17) ∧
    (pending 0x1002#32).cfg.valid = false ∧ ((withInstance 1 false (loaded 8 9)).issue 0x802#32).cfg.valid = true ∧
    nextIs (codecMove ((withInstance 1 false (loaded 8 0xA)).issue 0x803#32)) (fun t => t.result.err == 1#4) = true := by
  decide +kernel

theorem witness_FaultedBlockIsFrozen : (faulted .length).status.fault = true ∧ (faulted .length).status.busy = false ∧
    ∃ t, step (faulted .length) = .next t := ⟨by decide, by decide, _, rfl⟩

theorem witness_StepRunsTheDecodedInstruction :
    (pending 0x401#32).rst = false ∧ (pending 0x401#32).mover = .codec ∧ (pending 0x401#32).status.busy = true ∧
    decodeCommand (pending 0x401#32).pend = .ok (.configure 4 false) ∧
    State.HostNext { State.reset with host := [.tx 0x1100000000#38] } (.tx 0x1100000000#38) [] ∧
    decodeTransaction 0x1100000000#38 = .ok .rdstatus ∧
    decodeCommand (pending 5#32).pend = .error .illegalCommand ∧ (pending 5#32).mover = .codec ∧
    State.HostNext { faulted .length with host := [.tx 0x1000000000#38] } (.tx 0x1000000000#38) [] ∧
    State.HostNext { State.reset with host := [.tx 0x3100000000#38, .wait] } (.tx 0x3100000000#38) [.wait] ∧
    decodeTransaction 0x1000000000#38 = .error (.illegalAccess true) ∧
    decodeTransaction 0x3100000000#38 = .error (.illegalAccess false) ∧
    ({ State.reset with turns := [.codec] } : State).mover = .codec ∧ State.reset.mover = .host ∧ State.reset.host = [] := by
  unfold State.HostNext
  decide

theorem witness_FetchWordIsRun : decodeTableWord 32 0x00000802 = some (.encode 8) ∧
    decodeTableWord 40 0x1300000000 = some .rdcfg := by decide

end Sys2Proof.Tests
end

section
/-! The number of check bits over the legal range of `N`, and the sizing table of the configuration (00_scope R7,
41_matrix_builder R110, R111). -/

namespace Sys2Proof.Machine

/-- The number of data bits that `m` check bits serve, the test of R110, grows with `m`. -/
theorem dataBits_monotone : Monotone fun m => 2 ^ m - m - 1 :=
  monotone_nat_of_le_succ fun m => by
    have large : m < 2 ^ m := Nat.lt_two_pow_self
    simp only [Nat.pow_succ]
    omega

/-- The search of `Msel(N)` finds the number of check bits that serves `N` where one less does not. -/
theorem msel_eq_succ {n m : Nat} (searched : m ≤ 7) (tooFew : 2 ^ m - m - 1 < n)
    (enough : n ≤ 2 ^ (m + 1) - (m + 1) - 1) : msel n = m + 1 := by
  have found : (List.range' 1 8).find? (fun m => decide (n ≤ 2 ^ m - m - 1)) = some (m + 1) := by
    refine List.find?_range'_eq_some.mpr ⟨decide_eq_true enough, by simp; omega, fun j _ below => ?_⟩
    have fewer : 2 ^ j - j - 1 ≤ 2 ^ m - m - 1 := dataBits_monotone (Nat.le_of_lt_succ below)
    simp only [Bool.not_eq_true', decide_eq_false_iff_not]
    omega
  simp [msel, found]

/-- The M column of the sizing table. -/
theorem msel_of_legal {n : Nat} (small : 1 ≤ n) (large : n ≤ 120) :
    msel n =
      if n ≤ 1 then 2 else if n ≤ 4 then 3 else if n ≤ 11 then 4 else if n ≤ 26 then 5 else if n ≤ 57 then 6 else 7 := by
  split_ifs
  · exact msel_eq_succ (m := 1) (by omega) (by omega) (by omega)
  · exact msel_eq_succ (m := 2) (by omega) (by omega) (by omega)
  · exact msel_eq_succ (m := 3) (by omega) (by omega) (by omega)
  · exact msel_eq_succ (m := 4) (by omega) (by omega) (by omega)
  · exact msel_eq_succ (m := 5) (by omega) (by omega) (by omega)
  · exact msel_eq_succ (m := 6) (by omega) (by omega) (by omega)

@[simp] theorem cfgOf_valid (n : Nat) (na : Bool) : (cfgOf n na).valid = true := rfl

/-- CFG holds `N` itself: a legal `N` fits the 7 bits of its field. -/
theorem cfgOf_n_toNat {n : Nat} (na : Bool) (large : n ≤ 120) : (cfgOf n na).n.toNat = n :=
  Nat.mod_eq_of_lt (show n < 2 ^ 7 by omega)

/-- The L column: the width mode (R111) fixes the buffer length. -/
theorem cfgOf_len (n : Nat) (na : Bool) : (cfgOf n na).len = if n ≤ 57 then 8 else 16 := by
  simp only [cfgOf, Cfg.len, widthMode, decide_eq_true_eq]
  split_ifs <;> omega

/-- Settles O24: M by the thresholds of R110, CS and the fit by the invariant of CFG (R29), L by the width mode. -/
theorem sizingTable : Obligations.SizingTable := by
  intro n na small large
  have legal : (cfgOf n na).Legal := Cfg.of_legal na small large
  have rows := legal.rows (cfgOf_valid n na)
  have fits := legal.fits (cfgOf_valid n na)
  rw [cfgOf_n_toNat na large] at rows fits
  exact ⟨rows.trans (msel_of_legal small large), legal.check (cfgOf_valid n na), fits, cfgOf_len n na⟩

end Sys2Proof.Machine
end

section
/-! What changes CFG, MASK, EMAT and SYN (10_state R38): CONFIGURE alone among the instructions, and a reset. -/

namespace Sys2Proof.Machine

/-! Which operations keep CFG, MASK, EMAT and SYN. -/

theorem State.SameInstance.trans {s t u : State} (first : s.SameInstance t) (second : t.SameInstance u) :
    s.SameInstance u := by
  obtain ⟨cfg, mask, emat, syn⟩ := first
  obtain ⟨cfg', mask', emat', syn'⟩ := second
  exact ⟨cfg'.trans cfg, mask'.trans mask, emat'.trans emat, syn'.trans syn⟩

theorem State.sameInstance_raise (s : State) (who : Raiser) (c : Cause) : s.SameInstance (s.raise who c) :=
  ⟨rfl, rfl, rfl, rfl⟩

theorem State.sameInstance_ret (s : State) (r : Result) : s.SameInstance (s.ret r) := ⟨rfl, rfl, rfl, rfl⟩

theorem State.sameInstance_bufWrite (s : State) (l : Nat) (v : Wide) : s.SameInstance (s.bufWrite l v) :=
  ⟨s.bufWrite_cfg l v, s.bufWrite_mask l v, s.bufWrite_emat l v, s.bufWrite_syn l v⟩

theorem State.sameInstance_readOperand (s : State) (l : Nat) : s.SameInstance (s.readOperand l) := ⟨rfl, rfl, rfl, rfl⟩

theorem State.sameInstance_respond (s : State) (v : Word) : s.SameInstance (s.respond v) := ⟨rfl, rfl, rfl, rfl⟩

theorem State.sameInstance_respondUndefined (s : State) : s.SameInstance s.respondUndefined := ⟨rfl, rfl, rfl, rfl⟩

theorem State.sameInstance_respondIdle (s : State) (v : Word) : s.SameInstance (s.respondIdle v) := by
  rcases s.respondIdle_cases v with ⟨-, busy⟩ | ⟨-, idle⟩
  · rw [busy]; exact s.sameInstance_respondUndefined
  · rw [idle]; exact s.sameInstance_respond v

theorem State.sameInstance_hostWrite {s effect : State} (kept : s.SameInstance effect) :
    s.SameInstance (s.hostWrite effect) := by
  rcases s.hostWrite_cases effect with ⟨-, ignored⟩ | ⟨-, -, hazard⟩ | ⟨-, -, done⟩
  · rw [ignored]; exact .refl s
  · rw [hazard]; exact s.sameInstance_raise .host .hazard
  · rw [done]; exact kept

theorem State.sameInstance_illegalAccess (s : State) (read : Bool) : s.SameInstance (s.illegalAccess read) := by
  cases faulted : s.status.fault <;> cases read <;> simp [State.illegalAccess, faulted, State.SameInstance]

theorem State.sameInstance_ignoredInReset (s : State) (read : Bool) : s.SameInstance (s.ignoredInReset read) := by
  cases read
  · exact .refl s
  · exact s.sameInstance_respond 0#32

theorem State.sameInstance_encodeValue (s : State) (l : Nat) (v : Wide) : s.SameInstance (s.encodeValue l v) := by
  rcases s.encodeValue_cases l v with ⟨-, -, refused⟩ | ⟨-, written⟩
  · rw [refused]; exact s.sameInstance_raise .command .encodePrecond
  · rw [written]; exact (s.sameInstance_bufWrite l _).trans (State.sameInstance_ret _ _)

theorem State.sameInstance_decodeValue (s : State) (l : Nat) (v : Wide) : s.SameInstance (s.decodeValue l v) := by
  rcases s.decodeValue_cases l v with ⟨-, clean⟩ | ⟨-, -, corrected⟩ | ⟨-, -, double⟩
  · rw [clean]; exact (s.sameInstance_bufWrite l _).trans (State.sameInstance_ret _ _)
  · rw [corrected]; exact (s.sameInstance_bufWrite l _).trans (State.sameInstance_ret _ _)
  · rw [double]; exact s.sameInstance_ret _

theorem State.sameInstance_afterPoll (s : State) : s.SameInstance s.afterPoll := by
  unfold State.afterPoll
  split
  · exact ⟨rfl, rfl, rfl, rfl⟩
  · exact .refl s

theorem State.sameInstance_begin {s : State} (running : s.rst = false) : s.SameInstance s.begin := by
  rw [s.begin_of_not_rst running]
  exact ⟨rfl, rfl, rfl, rfl⟩

/-! The instructions, the agents' moves and the step. -/

/-- No instruction but CONFIGURE changes the configuration and its tables. -/
theorem exec_sameInstance {i : Instr} {s t : State} (other : ¬∃ n na, i = .configure n na) (runs : exec i s = .next t) :
    s.SameInstance t := by
  cases i with
  | configure n na => exact absurd ⟨n, na, rfl⟩ other
  | encode len =>
    rcases execEncode_cases len s with ⟨-, h⟩ | ⟨-, -, h⟩ | ⟨-, -, h⟩ <;> cases h.symm.trans runs
    · exact s.sameInstance_raise .command .notConfigured
    · exact s.sameInstance_raise .command .length
    · exact (s.sameInstance_readOperand _).trans (State.sameInstance_encodeValue _ _ _)
  | decode len =>
    rcases execDecode_cases len s with ⟨-, h⟩ | ⟨-, -, h⟩ | ⟨-, -, h⟩ <;> cases h.symm.trans runs
    · exact s.sameInstance_raise .command .notConfigured
    · exact s.sameInstance_raise .command .length
    · exact (s.sameInstance_readOperand _).trans (State.sameInstance_decodeValue _ _ _)
  | parity len =>
    rcases execParity_cases len s with ⟨-, h⟩ | ⟨-, h⟩ <;> cases h.symm.trans runs
    · exact s.sameInstance_raise .command .length
    · exact (s.sameInstance_readOperand _).trans (State.sameInstance_ret _ _)
  | wrbuf k w => cases runs; exact State.sameInstance_hostWrite ⟨rfl, rfl, rfl, rfl⟩
  | rdbuf k =>
    rcases execRdbuf_cases k s with ⟨-, h⟩ | ⟨-, h⟩ <;> cases h.symm.trans runs
    · exact s.sameInstance_respondUndefined
    · exact (s.readByte k).sameInstance_respond ((s.byte k).setWidth 32)
  | wrcmd w => cases runs; exact State.sameInstance_hostWrite ⟨rfl, rfl, rfl, rfl⟩
  | rdstatus => cases runs; exact s.sameInstance_respond s.status.word
  | rdresult => cases runs; exact s.sameInstance_respondIdle s.result.word
  | rdcfg => cases runs; exact s.sameInstance_respondIdle s.cfg.word

/-- CONFIGURE is a command and no transaction (30_encoding R76): the host reaches it through WRCMD and PEND alone. -/
theorem decodeTransaction_not_configure {w : BitVec 38} {i : Instr} (decoded : decodeTransaction w = .ok i) :
    ¬∃ n na, i = .configure n na := by
  rintro ⟨n, na, rfl⟩
  revert decoded
  unfold decodeTransaction
  repeat' split
  all_goals simp

/-- No transaction changes the configuration and its tables. -/
theorem transact_sameInstance {w : BitVec 38} {s t : State} (runs : transact w s = .next t) : s.SameInstance t := by
  rcases transact_cases w s with ⟨-, h⟩ | ⟨-, i, decoded, h⟩ | ⟨-, -, h⟩
  · cases h.symm.trans runs
    exact s.sameInstance_ignoredInReset !fieldWE w
  · exact exec_sameInstance (decodeTransaction_not_configure decoded) (h.symm.trans runs)
  · cases h.symm.trans runs
    exact s.sameInstance_illegalAccess !fieldWE w

/-- A poll of WAIT keeps the configuration and its tables. -/
theorem poll_sameInstance {s t : State} (runs : poll s = .next t) : s.SameInstance t := by
  cases h : transact rdstatusWord s with
  | next u =>
    simp only [poll, h] at runs
    cases runs
    exact (transact_sameInstance h).trans u.sameInstance_afterPoll
  | fault f => cases f
  | refused r => simp [poll, h] at runs

/-- The host changes the configuration and its tables by asserting `rst` alone. -/
theorem hostOp_sameInstance {op : HostOp} {s t : State} (other : op ≠ .assertReset) (runs : hostOp op s = .next t) :
    s.SameInstance t := by
  cases op with
  | tx w => exact transact_sameInstance runs
  | wait => exact poll_sameInstance runs
  | assertReset => exact absurd rfl other
  | releaseReset => cases runs; exact ⟨rfl, rfl, rfl, rfl⟩

/-- The codec unit changes the configuration and its tables by completing a CONFIGURE alone. -/
theorem codecMove_sameInstance {s t : State} (runs : codecMove s = .next t) :
    s.SameInstance t ∨ (s.status.busy = true ∧ ∃ n na, decodeCommand s.pend = .ok (.configure n na)) := by
  rcases codecMove_cases s with ⟨-, h⟩ | ⟨busy, i, decoded, h⟩ | ⟨-, -, -, h⟩
  · cases h.symm.trans runs
    exact .inl (.refl s)
  · by_cases configures : ∃ n na, i = .configure n na
    · obtain ⟨n, na, rfl⟩ := configures
      exact .inr ⟨busy, n, na, decoded⟩
    · exact .inl (exec_sameInstance configures (h.symm.trans runs))
  · cases h.symm.trans runs
    exact .inl (s.sameInstance_raise .command .illegalCommand)

/-- Settles O15: with `rst` low a step begins with the configuration and its tables as they are; then the codec unit's move
and the host's operation keep them but for a CONFIGURE and an assertion of `rst`. -/
theorem instanceImmutable : Obligations.InstanceImmutable := by
  intro s t stepped changed
  cases held : s.rst with
  | true => exact .inl rfl
  | false =>
    have begun : s.SameInstance s.begin := State.sameInstance_begin held
    rcases step_cases s with ⟨mover, h⟩ | ⟨-, -, h⟩ | ⟨mover, op, rest, queued, h⟩ <;> rw [h] at stepped
    · rcases codecMove_sameInstance stepped with same | ⟨busy, configures⟩
      · exact absurd (begun.trans same) changed
      · rw [s.begin_of_not_rst held] at busy configures
        exact .inr (.inr ⟨mover, busy, configures⟩)
    · cases stepped
      exact absurd begun changed
    · by_cases asserts : op = .assertReset
      · subst asserts
        exact .inr (.inl ⟨rest, mover, s.begin_host.symm.trans queued⟩)
      · have same : ({ s.begin with host := rest } : State).SameInstance t := hostOp_sameInstance asserts stepped
        exact absurd (begun.trans same) changed

end Sys2Proof.Machine
end

section
/-! Before a CONFIGURE the tables cannot be observed (10_state R37): an instruction carries other contents of MASK, EMAT and SYN
along unread, or overwrites them. -/

namespace Sys2Proof.Machine

/-- The state with other contents of MASK, EMAT and SYN: it differs from `s` in no other register. -/
def State.withTables (s : State) (mask : Wide) (emat : Vector Wide 7) (syn : Vector SynEntry 256) : State :=
  { s with mask := mask, emat := emat, syn := syn }

/-- Without a configuration ENCODE faults before it reads its operand or a table. -/
theorem execEncode_of_not_valid {s : State} (len : Nat) (unset : s.cfg.valid = false) :
    execEncode len s = .next (s.raise .command .notConfigured) := by simp [execEncode, unset]

/-- Without a configuration DECODE faults before it reads its operand or a table. -/
theorem execDecode_of_not_valid {s : State} (len : Nat) (unset : s.cfg.valid = false) :
    execDecode len s = .next (s.raise .command .notConfigured) := by simp [execDecode, unset]

section
variable (s : State) (mask : Wide) (emat : Vector Wide 7) (syn : Vector SynEntry 256)

/-! The operations that carry the tables along. -/

theorem State.hostWrite_withTables (effect : State) :
    (s.withTables mask emat syn).hostWrite (effect.withTables mask emat syn) =
      (s.hostWrite effect).withTables mask emat syn := by
  rcases s.hostWrite_cases effect with ⟨fault, h⟩ | ⟨fault, busy, h⟩ | ⟨fault, busy, h⟩ <;> rw [h]
  · exact if_pos fault
  · exact (if_neg (ne_true_of_eq_false fault)).trans (if_pos busy)
  · exact (if_neg (ne_true_of_eq_false fault)).trans (if_neg (ne_true_of_eq_false busy))

theorem State.respondIdle_withTables (v : Word) :
    (s.withTables mask emat syn).respondIdle v = (s.respondIdle v).withTables mask emat syn := by
  rcases s.respondIdle_cases v with ⟨busy, h⟩ | ⟨busy, h⟩ <;> rw [h]
  · exact if_pos busy
  · exact if_neg (ne_true_of_eq_false busy)

/-- CONFIGURE overwrites the three tables on each of its paths: the old contents decide nothing. -/
theorem State.configure_withTables (n : Nat) (na : Bool) :
    (s.withTables mask emat syn).configure n na = s.configure n na := rfl

variable {s}

/-- Without a configuration every instruction but CONFIGURE carries MASK, EMAT and SYN along unread. -/
theorem exec_withTables {i : Instr} (other : ¬∃ n na, i = .configure n na) (unset : s.cfg.valid = false) :
    ∃ t, exec i s = .next t ∧ exec i (s.withTables mask emat syn) = .next (t.withTables mask emat syn) := by
  cases i with
  | configure n na => exact absurd ⟨n, na, rfl⟩ other
  | encode len =>
    exact ⟨_, execEncode_of_not_valid len unset, execEncode_of_not_valid (s := s.withTables mask emat syn) len unset⟩
  | decode len =>
    exact ⟨_, execDecode_of_not_valid len unset, execDecode_of_not_valid (s := s.withTables mask emat syn) len unset⟩
  | parity len =>
    rcases execParity_cases len s with ⟨long, h⟩ | ⟨short, h⟩
    · exact ⟨_, h, if_pos long⟩
    · exact ⟨_, h, if_neg (Nat.not_lt.mpr short)⟩
  | wrbuf k w =>
    exact ⟨_, rfl, congrArg _ (s.hostWrite_withTables mask emat syn (s.setByte k (w.setWidth 8)))⟩
  | rdbuf k =>
    rcases execRdbuf_cases k s with ⟨busy, h⟩ | ⟨idle, h⟩
    · exact ⟨_, h, congrArg _ (if_pos busy)⟩
    · exact ⟨_, h, congrArg _ (if_neg (ne_true_of_eq_false idle))⟩
  | wrcmd w => exact ⟨_, rfl, congrArg _ (s.hostWrite_withTables mask emat syn (s.issue w))⟩
  | rdstatus => exact ⟨_, rfl, rfl⟩
  | rdresult => exact ⟨_, rfl, congrArg _ (s.respondIdle_withTables mask emat syn s.result.word)⟩
  | rdcfg => exact ⟨_, rfl, congrArg _ (s.respondIdle_withTables mask emat syn s.cfg.word)⟩

end

/-- The state after reset holds the values of R37. -/
theorem State.reset_atReset : State.reset.AtReset := by
  unfold State.AtReset
  decide

/-- Settles O11: CONFIGURE behaves alike on any contents of the tables; every other instruction carries them along, and leaves
CFG.VALID 0. -/
theorem resetValuesAndUnreachableTables : Obligations.ResetValuesAndUnreachableTables := by
  refine ⟨State.reset_atReset, fun i s mask emat syn unset => ?_⟩
  by_cases configures : ∃ n na, i = .configure n na
  · obtain ⟨n, na, rfl⟩ := configures
    exact ⟨s.configure n na, _, rfl, congrArg Host.Outcome.next (s.configure_withTables mask emat syn n na), rfl, fun _ => rfl⟩
  · obtain ⟨t, runs, carried⟩ := exec_withTables mask emat syn configures unset
    obtain ⟨cfg, -⟩ : s.SameInstance t := exec_sameInstance configures runs
    have unset' : t.cfg.valid = false := by rw [cfg, unset]
    exact ⟨t, t.withTables mask emat syn, runs, carried, rfl, fun valid => by simp [unset'] at valid⟩

end Sys2Proof.Machine
end

section
/-! The buffer value, its sum and its bits, and writing it (20_memory R51, R52). -/

namespace Sys2Proof.Machine

section
variable (s : State)

/-- The places of the bytes not read yet, below those read, are 0. -/
theorem State.valueOf_getLsbD_low {l k b : Nat} (hk : k ≤ l) (hl : l ≤ 16) (low : b < 8 * (l - k)) :
    (s.valueOf l k).getLsbD b = false := by
  rw [s.valueOf_getLsbD hk hl (by omega), if_neg (by omega)]

/-- No byte stands at or above bit `8 * l`. -/
theorem State.valueOf_getLsbD_high {l k b : Nat} (hk : k ≤ l) (high : 8 * l ≤ b) : (s.valueOf l k).getLsbD b = false := by
  induction k with
  | zero => simp [State.valueOf]
  | succ k ih =>
    have above : (s.byteAt k).getLsbD (b - 8 * (l - 1 - k)) = false := BitVec.getLsbD_of_ge _ _ (by omega)
    simp [State.valueOf, ih (by omega), above]

/-- The next byte's place is free, so the OR with it is a sum. -/
theorem State.valueOf_and_next {l k : Nat} (hk : k < l) (hl : l ≤ 16) :
    s.valueOf l k &&& ((s.byteAt k).setWidth 128 <<< (8 * (l - 1 - k))) = 0#128 := by
  apply BitVec.eq_of_getLsbD_eq
  intro b _
  rw [BitVec.getLsbD_and, BitVec.getLsbD_shiftLeft, BitVec.getLsbD_setWidth, BitVec.getLsbD_zero]
  by_cases low : b < 8 * (l - k)
  · rw [s.valueOf_getLsbD_low hk.le hl low, Bool.false_and]
  · simp [BitVec.getLsbD_of_ge (s.byteAt k) (b - 8 * (l - 1 - k)) (by omega)]

/-- A byte in its place, as a number. -/
theorem toNat_shiftLeft_byte (x : Byte) {n : Nat} (fits : n ≤ 120) :
    (x.setWidth 128 <<< n : Wide).toNat = x.toNat * 2 ^ n := by
  have bound : x.toNat * 2 ^ n < 2 ^ 128 :=
    calc x.toNat * 2 ^ n < 2 ^ 8 * 2 ^ n := Nat.mul_lt_mul_of_pos_right x.isLt (Nat.two_pow_pos n)
      _ ≤ 2 ^ 8 * 2 ^ 120 := Nat.mul_le_mul_left _ (Nat.pow_le_pow_right (by decide) fits)
  have narrow : x.toNat < 2 ^ 128 := x.isLt.trans (by decide)
  rw [BitVec.toNat_shiftLeft, BitVec.toNat_setWidth, Nat.mod_eq_of_lt narrow, Nat.shiftLeft_eq, Nat.mod_eq_of_lt bound]

/-- The bytes read so far, each at its place, add up (R51). -/
theorem State.valueOf_toNat {l k : Nat} (hk : k ≤ l) (hl : l ≤ 16) :
    (s.valueOf l k).toNat = ((List.range k).map fun i => (s.byteAt i).toNat * 2 ^ (8 * (l - 1 - i))).sum := by
  induction k with
  | zero => rfl
  | succ k ih =>
    have free := s.valueOf_and_next hk hl
    rw [State.valueOf, ← BitVec.add_eq_or_of_and_eq_zero _ _ free, BitVec.toNat_add_of_and_eq_zero free, ih (by omega),
      toNat_shiftLeft_byte _ (by omega), List.sum_range_succ]

/-- Every bit of a buffer value (R51). -/
theorem State.bufRead_getLsbD {l : Nat} (hl : l ≤ 16) (b : Nat) :
    (s.bufRead l).getLsbD b = (decide (b < 8 * l) && (s.byteAt (l - 1 - b / 8)).getLsbD (b % 8)) := by
  by_cases hb : b < 8 * l
  · rw [State.bufRead, s.valueOf_getLsbD le_rfl hl hb, if_pos (by omega)]
    simp [hb]
  · rw [State.bufRead, s.valueOf_getLsbD_high le_rfl (by omega)]
    simp [hb]

/-- Byte `i` of a buffer value (R52's slice of what R51 reads). -/
theorem State.extractLsb'_bufRead {l : Nat} (hl : l ≤ 16) {i : Fin 16} (hi : i.val < l) :
    (s.bufRead l).extractLsb' (8 * (l - 1 - i.val)) 8 = s.byte i := by
  apply BitVec.eq_of_getLsbD_eq
  intro j hj
  have inside : 8 * (l - 1 - i.val) + j < 8 * l := by omega
  have index : l - 1 - (8 * (l - 1 - i.val) + j) / 8 = i.val := by omega
  have place : (8 * (l - 1 - i.val) + j) % 8 = j := by omega
  rw [BitVec.getLsbD_extractLsb', s.bufRead_getLsbD hl, index, place]
  simp [hj, inside, State.byteAt]

/-- `BufRead` after `BufWrite` (R52). -/
theorem State.bufRead_bufWrite {l : Nat} (hl : l ≤ 16) {v : Wide} (fits : v.toNat < 2 ^ (8 * l)) :
    (s.bufWrite l v).bufRead l = v := by
  apply BitVec.eq_of_getLsbD_eq
  intro b _
  rw [State.bufRead_getLsbD _ hl]
  by_cases hb : b < 8 * l
  · have index : (Fin.ofNat 16 (l - 1 - b / 8)).val = l - 1 - b / 8 := Nat.mod_eq_of_lt (by omega)
    have place : 8 * (l - 1 - (l - 1 - b / 8)) + b % 8 = b := by omega
    rw [State.byteAt, s.byte_bufWrite, index, if_pos (by omega), BitVec.getLsbD_extractLsb', place]
    simp [hb, Nat.mod_lt]
  · have clear : v.getLsbD b = false :=
      Nat.testBit_lt_two_pow (fits.trans_le (Nat.pow_le_pow_right (by decide) (by omega)))
    simp [hb, clear]

/-- `BufWrite` of what `BufRead` has read changes no byte (R52). -/
theorem State.byte_bufWrite_bufRead {l : Nat} (hl : l ≤ 16) (i : Fin 16) : (s.bufWrite l (s.bufRead l)).byte i = s.byte i := by
  rw [s.byte_bufWrite]
  split
  · next hi => exact s.extractLsb'_bufRead hl hi
  · rfl

/-- `BufWrite` leaves the bytes past the operand (R52). -/
theorem State.sameBufferFrom_bufWrite (l : Nat) (v : Wide) : s.SameBufferFrom l (s.bufWrite l v) := fun i hi => by
  have past : ¬i.val < l := by omega
  rw [s.byte_bufWrite, s.byteDef_bufWrite, if_neg past, if_neg past]
  exact ⟨rfl, rfl⟩

end

/-- Settles O16: the places of the bytes do not overlap, so their OR is their sum; each bit by its place. -/
theorem bufferValueIsBigEndian : Obligations.BufferValueIsBigEndian := by
  intro s l size
  have hl : l ≤ 16 := by omega
  exact ⟨s.valueOf_toNat le_rfl hl, fun b hb => by rw [s.bufRead_getLsbD hl, decide_eq_true hb, Bool.true_and]⟩

/-- Settles O17: by the laws of a byte after `BufWrite`, and of `BufRead` and `BufWrite` in either order. -/
theorem bufferWriteInvertsRead : Obligations.BufferWriteInvertsRead := by
  intro s l v size fits
  have hl : l ≤ 16 := by omega
  refine ⟨fun i hi => ?_, s.sameBufferFrom_bufWrite l v, s.bufRead_bufWrite hl fits, s.byte_bufWrite_bufRead hl⟩
  rw [s.byte_bufWrite, s.byteDef_bufWrite, if_pos hi, if_pos hi]
  exact ⟨rfl, rfl⟩

end Sys2Proof.Machine
end

section
/-! A command reads and changes no byte of the buffer past its operand (20_memory R53). -/

namespace Sys2Proof.Machine

/-- The state with other contents of BUF and BUFDEF: it differs from `s` in no other register. -/
def State.withBuffer (s : State) (buf : Vector Byte 16) (bufDef : Vector Bool 16) : State :=
  { s with buf := buf, bufDef := bufDef }

/-- `r` differs from `s` in buffer bytes from `k` on alone. -/
structure State.AgreesBelow (k : Nat) (s r : State) : Prop where
  registers : ∃ buf bufDef, r = s.withBuffer buf bufDef
  bytes : ∀ j : Fin 16, j.val < k → r.byte j = s.byte j ∧ r.byteDef j = s.byteDef j

/-- What R53 says of an operation on `k` bytes that takes `s` to `t` and `r` to `u`: states that agree up to byte `k` still do,
and the bytes from `k` on stay in each. -/
structure State.WorksBelow (k : Nat) (s r t u : State) : Prop where
  agrees : t.AgreesBelow k u
  kept : s.SameBufferFrom k t
  kept' : r.SameBufferFrom k u

theorem State.SameBufferFrom.trans {l : Nat} {s t u : State} (first : s.SameBufferFrom l t) (second : t.SameBufferFrom l u) :
    s.SameBufferFrom l u := fun i hi =>
  ⟨(second i hi).1.trans (first i hi).1, (second i hi).2.trans (first i hi).2⟩

theorem State.WorksBelow.trans {k : Nat} {s r t u t' u' : State} (first : State.WorksBelow k s r t u)
    (second : State.WorksBelow k t u t' u') : State.WorksBelow k s r t' u' :=
  ⟨second.agrees, first.kept.trans second.kept, first.kept'.trans second.kept'⟩

/-- CONFIGURE carries the buffer along unread (R119). -/
theorem State.configure_withBuffer (s : State) (n : Nat) (na : Bool) (buf : Vector Byte 16) (bufDef : Vector Bool 16) :
    (s.withBuffer buf bufDef).configure n na = (s.configure n na).withBuffer buf bufDef := by
  unfold State.configure
  split
  · rfl
  · split <;> rfl

/-- CONFIGURE leaves the buffer (R119). -/
theorem State.sameBuffer_configure (n : Nat) (na : Bool) (s : State) : s.SameBuffer (s.configure n na) := by
  rcases s.configure_cases n na with ⟨-, h⟩ | ⟨-, -, h⟩ | ⟨_, -, -, h⟩ <;> rw [h] <;> exact fun _ => ⟨rfl, rfl⟩

namespace State.AgreesBelow

section
variable {k : Nat} {s r : State} (h : s.AgreesBelow k r)
include h

/-! What two states that agree up to byte `k` have in common. -/

theorem cfg : r.cfg = s.cfg := by obtain ⟨_, _, rfl⟩ := h.registers; rfl

theorem mask : r.mask = s.mask := by obtain ⟨_, _, rfl⟩ := h.registers; rfl

theorem syn : r.syn = s.syn := by obtain ⟨_, _, rfl⟩ := h.registers; rfl

theorem pmp (v : Wide) : r.pmp v = s.pmp v := by obtain ⟨_, _, rfl⟩ := h.registers; rfl

theorem bufRead : r.bufRead k = s.bufRead k :=
  s.valueOf_congr fun i hi => (h.bytes (Fin.ofNat 16 i) ((Nat.mod_le i 16).trans_lt hi)).1

theorem readBytes : r.bytes k = s.bytes k := by
  unfold State.bytes
  refine List.ext_getElem (by simp) fun i hi _ => ?_
  have below : i < k := by simp at hi; omega
  simpa using (h.bytes _ below).1

theorem firstUndefined : r.firstUndefined k = s.firstUndefined k := by
  refine List.find?_congr fun i _ => ?_
  by_cases below : i.val < k
  · rw [(h.bytes i below).2]
  · simp [below]

/-! The operations of the commands work below byte `k`. -/

/-- An operation that carries the buffer along unread, and leaves it, works below any byte. -/
theorem untouched (op : State → State)
    (carries : ∀ buf bufDef, op (s.withBuffer buf bufDef) = (op s).withBuffer buf bufDef)
    (leaves : ∀ x : State, x.SameBuffer (op x)) : State.WorksBelow k s r (op s) (op r) := by
  refine ⟨⟨?_, fun j hj => ?_⟩, fun j _ => leaves s j, fun j _ => leaves r j⟩
  · obtain ⟨buf, bufDef, rfl⟩ := h.registers
    exact ⟨buf, bufDef, carries buf bufDef⟩
  · rw [(leaves r j).1, (leaves s j).1, (leaves r j).2, (leaves s j).2]
    exact h.bytes j hj

theorem raise (who : Raiser) (c : Cause) : State.WorksBelow k s r (s.raise who c) (r.raise who c) :=
  h.untouched (·.raise who c) (fun _ _ => rfl) fun _ _ => ⟨rfl, rfl⟩

theorem ret (x : Result) : State.WorksBelow k s r (s.ret x) (r.ret x) :=
  h.untouched (·.ret x) (fun _ _ => rfl) fun _ _ => ⟨rfl, rfl⟩

theorem configure (n : Nat) (na : Bool) : State.WorksBelow k s r (s.configure n na) (r.configure n na) :=
  h.untouched (·.configure n na) (s.configure_withBuffer n na) (State.sameBuffer_configure n na)

/-- The operand read records the same byte in both, for its first undefined byte is the same. -/
theorem readOperand : State.WorksBelow k s r (s.readOperand k) (r.readOperand k) := by
  rw [State.readOperand, State.readOperand, h.firstUndefined]
  exact h.untouched (·.noteRead (s.firstUndefined k)) (fun _ _ => rfl) fun _ _ => ⟨rfl, rfl⟩

theorem bufWrite (v : Wide) : State.WorksBelow k s r (s.bufWrite k v) (r.bufWrite k v) := by
  refine ⟨⟨?_, fun j hj => ?_⟩, s.sameBufferFrom_bufWrite k v, r.sameBufferFrom_bufWrite k v⟩
  · obtain ⟨buf, bufDef, rfl⟩ := h.registers
    exact ⟨_, _, rfl⟩
  · simp [State.byte_bufWrite, State.byteDef_bufWrite, hj]

/-- A command's write of its operand, and its end. -/
theorem bufWrite_ret (v : Wide) (x : Result) : State.WorksBelow k s r ((s.bufWrite k v).ret x) ((r.bufWrite k v).ret x) :=
  (h.bufWrite v).trans ((h.bufWrite v).agrees.ret x)

theorem encodeValue (v : Wide) : State.WorksBelow k s r (s.encodeValue k v) (r.encodeValue k v) := by
  simp only [State.encodeValue, h.cfg, h.pmp]
  split_ifs
  · exact h.raise .command .encodePrecond
  · exact h.bufWrite_ret _ _

theorem decodeValue (v : Wide) : State.WorksBelow k s r (s.decodeValue k v) (r.decodeValue k v) := by
  simp only [State.decodeValue, h.pmp, h.syn, h.mask]
  split_ifs
  · exact h.bufWrite_ret _ _
  · exact h.bufWrite_ret _ _
  · exact h.ret _

end

end State.AgreesBelow

/-- Instruction `i` completes from `s` and from `r`, and works below byte `k`. -/
def ExecWorksBelow (k : Nat) (i : Instr) (s r : State) : Prop :=
  ∃ t u, exec i s = .next t ∧ exec i r = .next u ∧ State.WorksBelow k s r t u

section
variable {s r : State}

/-! Each command works below the end of its operand. -/

theorem encode_worksBelow (len : Nat) (h : s.AgreesBelow s.cfg.len r) : ExecWorksBelow s.cfg.len (.encode len) s r := by
  have read := h.readOperand
  simp only [ExecWorksBelow, exec, execEncode, h.cfg, h.bufRead]
  split_ifs
  · exact ⟨_, _, rfl, rfl, h.raise .command .notConfigured⟩
  · exact ⟨_, _, rfl, rfl, h.raise .command .length⟩
  · exact ⟨_, _, rfl, rfl, read.trans (read.agrees.encodeValue _)⟩

theorem decode_worksBelow (len : Nat) (h : s.AgreesBelow s.cfg.len r) : ExecWorksBelow s.cfg.len (.decode len) s r := by
  have read := h.readOperand
  simp only [ExecWorksBelow, exec, execDecode, h.cfg, h.bufRead]
  split_ifs
  · exact ⟨_, _, rfl, rfl, h.raise .command .notConfigured⟩
  · exact ⟨_, _, rfl, rfl, h.raise .command .length⟩
  · exact ⟨_, _, rfl, rfl, read.trans (read.agrees.decodeValue _)⟩

theorem parity_worksBelow {len : Nat} (h : s.AgreesBelow len r) : ExecWorksBelow len (.parity len) s r := by
  have read := h.readOperand
  simp only [ExecWorksBelow, exec, execParity, h.readBytes]
  split_ifs
  · exact ⟨_, _, rfl, rfl, h.raise .command .length⟩
  · exact ⟨_, _, rfl, rfl, read.trans (read.agrees.ret _)⟩

theorem configure_worksBelow {k : Nat} (n : Nat) (na : Bool) (h : s.AgreesBelow k r) :
    ExecWorksBelow k (.configure n na) s r :=
  ⟨_, _, rfl, rfl, h.configure n na⟩

end

/-- Settles O18: the states agree below the operand's end, and each command works below it. -/
theorem onlyTheOperandMatters : Obligations.OnlyTheOperandMatters := by
  intro s r i len k registers command bytes
  have h : s.AgreesBelow k r := ⟨⟨r.buf, r.bufDef, registers⟩, bytes⟩
  have works : ExecWorksBelow k i s r := by
    rcases command with ⟨rfl, rfl⟩ | ⟨rfl, rfl⟩ | ⟨rfl, rfl⟩ | ⟨⟨n, na, rfl⟩, -⟩
    · exact encode_worksBelow len h
    · exact decode_worksBelow len h
    · exact parity_worksBelow h
    · exact configure_worksBelow n na h
  obtain ⟨t, u, runs, runs', agrees, kept, kept'⟩ := works
  obtain ⟨⟨buf, bufDef, rfl⟩, bytes'⟩ := agrees
  exact ⟨t, _, runs, runs', rfl, bytes', kept, kept'⟩

end Sys2Proof.Machine
end

section
/-! Decoding a command word (30_encoding R70, R73, R74): a row is hit exactly when its opcode is there and its reserved bits
are 0, no two rows are hit by one word, and a word that hits none only faults. -/

namespace Sys2Proof

/-- Words that hold the same field agree on each bit of it. -/
theorem getLsbD_eq_of_extractLsb'_eq {w start len k : Nat} {x y : BitVec w}
    (same : x.extractLsb' start len = y.extractLsb' start len) (above : start ≤ k) (below : k < start + len) :
    x.getLsbD k = y.getLsbD k := by
  have inside : k - start < len := by omega
  have bit := congrArg (·.getLsbD (k - start)) same
  simpa [inside, Nat.add_sub_cancel' above] using bit

/-- A command word is made of its opcode, bits 7:4, an operand field of `n` bits and the `m` bits above it (R70). -/
theorem word_eq_iff_fields {n m : Nat} (cover : n + m = 24) {x y : Word} :
    x = y ↔ x.extractLsb' 0 4 = y.extractLsb' 0 4 ∧ x.extractLsb' 4 4 = y.extractLsb' 4 4 ∧
      x.extractLsb' 8 n = y.extractLsb' 8 n ∧ x.extractLsb' (8 + n) m = y.extractLsb' (8 + n) m := by
  refine ⟨fun same => same ▸ ⟨rfl, rfl, rfl, rfl⟩, fun ⟨opcode, reserved, operand, high⟩ => ?_⟩
  refine BitVec.eq_of_getLsbD_eq fun k bound => ?_
  rcases Nat.lt_or_ge k 4 with _ | _
  · exact getLsbD_eq_of_extractLsb'_eq opcode (by omega) (by omega)
  rcases Nat.lt_or_ge k 8 with _ | _
  · exact getLsbD_eq_of_extractLsb'_eq reserved (by omega) (by omega)
  rcases Nat.lt_or_ge k (8 + n) with _ | _
  · exact getLsbD_eq_of_extractLsb'_eq operand (by omega) (by omega)
  · exact getLsbD_eq_of_extractLsb'_eq high (by omega) (by omega)

/-- A pattern that is an opcode alone has 0 in every field above it. -/
theorem extractLsb'_opcode_above (op : BitVec 4) {start : Nat} (len : Nat) (above : 4 ≤ start) :
    (op.setWidth 32).extractLsb' start len = 0#len := by
  refine BitVec.eq_of_getLsbD_eq fun k _ => ?_
  simp [BitVec.getLsbD_of_ge op (start + k) (by omega)]

/-- A row whose mask leaves out an operand field of `n` bits and nothing else is hit exactly when the word has the row's
opcode and every reserved bit is 0. -/
theorem hits_iff_fields {n m : Nat} (cover : n + m = 24) {mask : Word} (opcode : mask.extractLsb' 0 4 = BitVec.allOnes 4)
    (reserved : mask.extractLsb' 4 4 = BitVec.allOnes 4) (operand : mask.extractLsb' 8 n = 0#n)
    (high : mask.extractLsb' (8 + n) m = BitVec.allOnes m) (op : BitVec 4) (w : Word) :
    (Row.mk mask (op.setWidth 32)).hits w = true ↔
      w.extractLsb' 0 4 = op ∧ w.extractLsb' 4 4 = 0#4 ∧ w.extractLsb' (8 + n) m = 0#m := by
  have own : (op.setWidth 32).extractLsb' 0 4 = op := by
    rw [← BitVec.setWidth_eq_extractLsb' (by omega), BitVec.setWidth_setWidth_of_le _ (by omega), BitVec.setWidth_eq]
  have free : w.extractLsb' 8 n &&& 0#n = 0#n := BitVec.and_zero
  simp only [Row.hits, beq_iff_eq, word_eq_iff_fields cover, BitVec.extractLsb'_and, opcode, reserved, operand, high,
    BitVec.and_allOnes, own, free, extractLsb'_opcode_above op 4 (Nat.le_refl 4),
    extractLsb'_opcode_above op n (show 4 ≤ 8 by omega), extractLsb'_opcode_above op m (show 4 ≤ 8 + n by omega), true_and]

/-- The row of format `CFGW` (R70). -/
theorem configureRow_hits_iff (w : Word) :
    configureRow.hits w = true ↔ w.extractLsb' 0 4 = 1#4 ∧ w.extractLsb' 4 4 = 0#4 ∧ w.extractLsb' 16 16 = 0#16 :=
  hits_iff_fields (n := 8) (m := 16) rfl rfl rfl rfl rfl 1#4 w

/-- The rows of format `BUFW` (R70), which differ in their opcode alone. -/
theorem bufwRow_hits_iff (op : BitVec 4) (w : Word) :
    (Row.mk 0xFFFFE0FF#32 (op.setWidth 32)).hits w = true ↔
      w.extractLsb' 0 4 = op ∧ w.extractLsb' 4 4 = 0#4 ∧ w.extractLsb' 13 19 = 0#19 :=
  hits_iff_fields (n := 5) (m := 19) rfl rfl rfl rfl rfl op w

theorem encodeRow_hits_iff (w : Word) :
    encodeRow.hits w = true ↔ w.extractLsb' 0 4 = 2#4 ∧ w.extractLsb' 4 4 = 0#4 ∧ w.extractLsb' 13 19 = 0#19 :=
  bufwRow_hits_iff 2#4 w

theorem decodeRow_hits_iff (w : Word) :
    decodeRow.hits w = true ↔ w.extractLsb' 0 4 = 3#4 ∧ w.extractLsb' 4 4 = 0#4 ∧ w.extractLsb' 13 19 = 0#19 :=
  bufwRow_hits_iff 3#4 w

theorem parityRow_hits_iff (w : Word) :
    parityRow.hits w = true ↔ w.extractLsb' 0 4 = 4#4 ∧ w.extractLsb' 4 4 = 0#4 ∧ w.extractLsb' 13 19 = 0#19 :=
  bufwRow_hits_iff 4#4 w

/-! One word hits at most one row. -/

/-- Every mask includes bits 3:0, so a row that is hit shows its opcode in the word. -/
theorem opcode_eq_of_hits {r : Row 32} (row : r ∈ commandRows) {w : Word} (hit : r.hits w = true) :
    w.extractLsb' 0 4 = r.pattern.extractLsb' 0 4 := by
  have included : ∀ r ∈ commandRows, r.mask.extractLsb' 0 4 = BitVec.allOnes 4 := by decide
  rw [← eq_of_beq hit, BitVec.extractLsb'_and, included r row, BitVec.and_allOnes]

/-- The four opcodes differ, so at most one row is hit (R73). -/
theorem row_eq_of_hits {r r' : Row 32} (row : r ∈ commandRows) (row' : r' ∈ commandRows) {w : Word}
    (hit : r.hits w = true) (hit' : r'.hits w = true) : r = r' := by
  have differ : ∀ r ∈ commandRows, ∀ r' ∈ commandRows,
      r.pattern.extractLsb' 0 4 = r'.pattern.extractLsb' 0 4 → r = r' := by decide
  exact differ r row r' row' ((opcode_eq_of_hits row hit).symm.trans (opcode_eq_of_hits row' hit'))

theorem misses_of_hits {r r' : Row 32} {w : Word} (hit : r.hits w = true) (row : r ∈ commandRows := by decide)
    (row' : r' ∈ commandRows := by decide) (other : r ≠ r' := by decide) : r'.hits w = false := by
  by_contra h
  exact other (row_eq_of_hits row row' hit (by simpa using h))

theorem length_filter_hits_le_one (w : Word) : (commandRows.filter fun r => r.hits w).length ≤ 1 := by
  have distinct : (commandRows.filter fun r => r.hits w).Nodup := List.Nodup.filter _ (by decide)
  rw [← List.toFinset_card_of_nodup distinct, Finset.card_le_one]
  simp only [List.mem_toFinset, List.mem_filter]
  exact fun r ⟨row, hit⟩ r' ⟨row', hit'⟩ => row_eq_of_hits row row' hit hit'

/-! What the decoder answers for a word that hits each row, and for a word that hits none. -/

theorem decodeCommand_of_configureRow {w : Word} (hit : configureRow.hits w = true) :
    decodeCommand w = .ok (.configure (fieldN w) (fieldNA w)) := by
  simp [decodeCommand, hit]

theorem decodeCommand_of_encodeRow {w : Word} (hit : encodeRow.hits w = true) :
    decodeCommand w = .ok (.encode (fieldLen w)) := by
  have miss : configureRow.hits w = false := misses_of_hits hit
  simp [decodeCommand, hit, miss]

theorem decodeCommand_of_decodeRow {w : Word} (hit : decodeRow.hits w = true) :
    decodeCommand w = .ok (.decode (fieldLen w)) := by
  have miss : configureRow.hits w = false := misses_of_hits hit
  have miss' : encodeRow.hits w = false := misses_of_hits hit
  simp [decodeCommand, hit, miss, miss']

theorem decodeCommand_of_parityRow {w : Word} (hit : parityRow.hits w = true) :
    decodeCommand w = .ok (.parity (fieldLen w)) := by
  have miss : configureRow.hits w = false := misses_of_hits hit
  have miss' : encodeRow.hits w = false := misses_of_hits hit
  have miss'' : decodeRow.hits w = false := misses_of_hits hit
  simp [decodeCommand, hit, miss, miss', miss'']

theorem decodeCommand_eq_error_iff (w : Word) :
    decodeCommand w = .error .illegalCommand ↔ ∀ r ∈ commandRows, r.hits w = false := by
  unfold decodeCommand
  split_ifs <;> simp_all [commandRows]

end Sys2Proof

namespace Sys2Proof.Machine

theorem State.commandFaulted_raise (s : State) (c : Cause) : s.CommandFaulted (s.raise .command c) c :=
  ⟨s.faultLatched_raise .command c, rfl, fun _ => ⟨rfl, rfl⟩, rfl, rfl, rfl⟩

theorem codecMove_of_illegal {s : State} (busy : s.status.busy = true)
    (illegal : decodeCommand s.pend = .error .illegalCommand) :
    codecMove s = .next (s.raise .command .illegalCommand) := by
  simp [codecMove, busy, illegal]

/-- Settles O3: a line's test is the hit of its row, the rows exclude each other by their opcodes, and a word that hits none
does not decode. -/
theorem commandWordDecoding : Obligations.CommandWordDecoding := by
  intro w
  refine ⟨fun line => ?_, fun line => ?_, fun line => ?_, fun line => ?_, fun miss s busy held => ?_,
    length_filter_hits_le_one w⟩
  · exact decodeCommand_of_configureRow (beq_iff_eq.mpr line)
  · exact decodeCommand_of_encodeRow (beq_iff_eq.mpr line)
  · exact decodeCommand_of_decodeRow (beq_iff_eq.mpr line)
  · exact decodeCommand_of_parityRow (beq_iff_eq.mpr line)
  · have illegal : decodeCommand s.pend = .error .illegalCommand := by rw [held, decodeCommand_eq_error_iff]; exact miss
    exact ⟨_, codecMove_of_illegal busy illegal, s.commandFaulted_raise .illegalCommand⟩

/-- Settles O4: a word is illegal where it hits no row, which the opcode and the reserved bits decide; the fault then raised
writes nothing but the latch and RESULT. -/
theorem illegalCommandWords : Obligations.IllegalCommandWords := by
  refine fun w => ⟨?_, fun illegal s busy held => ?_⟩
  · simp only [decodeCommand_eq_error_iff, commandRows, List.forall_mem_cons, List.not_mem_nil, false_implies, implies_true,
      and_true, ← Bool.not_eq_true, configureRow_hits_iff, encodeRow_hits_iff, decodeRow_hits_iff, parityRow_hits_iff]
    generalize w.extractLsb' 0 4 = opcode
    generalize w.extractLsb' 4 4 = reserved
    generalize w.extractLsb' 16 16 = highCfgw
    generalize w.extractLsb' 13 19 = highBufw
    bv_omega
  · exact ⟨_, codecMove_of_illegal busy (held ▸ illegal), s.commandFaulted_raise .illegalCommand,
      s.sameInstance_raise .command .illegalCommand, rfl, rfl⟩

end Sys2Proof.Machine
end

section
/-! The assembler's transactions as numbers (30_encoding R76, R77): the fields of a transaction and of a command word stand in
disjoint places, so where every operand fits its field the word is the sum of the shifted fields. -/

namespace Sys2Proof.Machine

/-- A field that fits in its place is shifted there without loss. -/
theorem place_toNat {w n k : Nat} (v : BitVec w) (fits : w + k ≤ n) : (place n v k).toNat = v.toNat <<< k := by
  have shifted : v.toNat <<< k < 2 ^ n := calc
    v.toNat <<< k = v.toNat * 2 ^ k := Nat.shiftLeft_eq _ _
    _ < 2 ^ w * 2 ^ k := Nat.mul_lt_mul_of_pos_right v.isLt (Nat.two_pow_pos k)
    _ = 2 ^ (w + k) := (Nat.pow_add 2 w k).symm
    _ ≤ 2 ^ n := Nat.pow_le_pow_right (by omega) fits
  rw [place, BitVec.toNat_shiftLeft, BitVec.toNat_setWidth_of_le (by omega), Nat.mod_eq_of_lt shifted]

/-- `T = {WE, ADDR, WDATA}` (R76). -/
theorem transactionWord_toNat (we : Bool) (addr : BitVec 5) (wdata : Word) :
    (transactionWord we addr wdata).toNat = we.toNat * 0x2000000000 + (addr.toNat * 2 ^ 32 + wdata.toNat) := by
  have hw : wdata.toNat < 2 ^ 32 := wdata.isLt
  have ha : addr.toNat < 2 ^ 5 := addr.isLt
  have low : addr.toNat <<< 32 + wdata.toNat < 2 ^ 37 := by rw [Nat.shiftLeft_eq]; omega
  simp only [transactionWord, placeBit, BitVec.toNat_or]
  rw [place_toNat _ (by omega), place_toNat _ (by omega), place_toNat _ (by omega), Nat.shiftLeft_zero, Nat.or_assoc,
    ← Nat.shiftLeft_add_eq_or_of_lt hw, ← Nat.shiftLeft_add_eq_or_of_lt low, BitVec.toNat_ofBool, Nat.shiftLeft_eq,
    Nat.shiftLeft_eq]

/-- The transaction of operands that fit their fields. -/
theorem present_eq (we : Bool) {addr wdata : Nat} (addrFits : addr < 2 ^ 5) (wdataFits : wdata < 2 ^ 32) :
    present we addr wdata = .tx (BitVec.ofNat 38 (we.toNat * 0x2000000000 + (addr * 2 ^ 32 + wdata))) := by
  have bit : we.toNat ≤ 1 := we.toNat_le
  rw [present, HostOp.tx.injEq]
  refine BitVec.eq_of_toNat_eq ?_
  rw [transactionWord_toNat, BitVec.toNat_ofNat, BitVec.toNat_ofNat, BitVec.toNat_ofNat, Nat.mod_eq_of_lt addrFits,
    Nat.mod_eq_of_lt wdataFits, Nat.mod_eq_of_lt (by omega)]

/-- The transaction `WRCMD w` (R77). -/
theorem presentCommand_eq {w : Nat} (fits : w < 2 ^ 32) : presentCommand w = .tx (BitVec.ofNat 38 (0x3000000000 + w)) := by
  rw [presentCommand, present_eq true (by omega) fits]
  exact congrArg (fun t => HostOp.tx (BitVec.ofNat 38 t)) (by rw [Bool.toNat_true]; omega)

/-- `(n << 8) | op` is a sum: the opcode lies below the operand. -/
theorem shorthand_eq_add (n : Nat) {op : Nat} (low : op < 2 ^ 8) : n <<< 8 ||| op = n * 256 + op := by
  rw [← Nat.shiftLeft_add_eq_or_of_lt low, Nat.shiftLeft_eq]

/-- `(n << 8) | 0x8000 | 1` is a sum: `N` lies between the opcode and bit 15. -/
theorem noassertWord_eq_add {n : Nat} (fits : n ≤ 127) : n <<< 8 ||| 0x8000 ||| 1 = n * 256 + 0x8001 := by
  have below : n <<< 8 + 1 < 2 ^ 15 := by rw [Nat.shiftLeft_eq]; omega
  calc n <<< 8 ||| 1 <<< 15 ||| 1 = 1 <<< 15 ||| (n <<< 8 ||| 1) := by rw [Nat.or_comm (n <<< 8), Nat.or_assoc]
    _ = 1 <<< 15 + (n * 256 + 1) := by
        rw [← Nat.shiftLeft_add_eq_or_of_lt (by omega) n, ← Nat.shiftLeft_add_eq_or_of_lt below, Nat.shiftLeft_eq n]
    _ = n * 256 + 0x8001 := by omega

/-! The lines with operands. -/

theorem assembleLine_wrbuf {i b : Nat} (index : i ≤ 15) (byte : b ≤ 255) :
    assembleLine (.wrbuf i b) = some [.tx (BitVec.ofNat 38 (0x2000000000 + i * 2 ^ 32 + b))] := by
  rw [assembleLine, if_pos ⟨index, byte⟩, present_eq true (by omega) (by omega), Bool.toNat_true, Nat.one_mul, ← Nat.add_assoc]

theorem assembleLine_rdbuf {i : Nat} (index : i ≤ 15) :
    assembleLine (.rdbuf i) = some [.tx (BitVec.ofNat 38 (i * 2 ^ 32))] := by
  rw [assembleLine, if_pos index, present_eq false (by omega) (by omega), Bool.toNat_false, Nat.zero_mul, Nat.zero_add,
    Nat.add_zero]

theorem assembleLine_configure {n : Nat} (fits : n ≤ 127) :
    assembleLine (.configure n false) = some [.tx (BitVec.ofNat 38 (0x3000000000 + n * 256 + 1))] := by
  simp only [assembleLine, if_pos fits, Bool.false_eq_true, if_false, Nat.or_zero]
  rw [shorthand_eq_add n (by omega), presentCommand_eq (by omega), Nat.add_assoc]

theorem assembleLine_configure_noassert {n : Nat} (fits : n ≤ 127) :
    assembleLine (.configure n true) = some [.tx (BitVec.ofNat 38 (0x3000000000 + n * 256 + 0x8001))] := by
  simp only [assembleLine, if_pos fits, if_true]
  rw [noassertWord_eq_add fits, presentCommand_eq (by omega), Nat.add_assoc]

/-- ENCODE, DECODE and PARITY differ in their opcode alone. -/
theorem lengthCommand_eq {op len : Nat} (low : op < 2 ^ 8) (fits : len ≤ 31) :
    lengthCommand op len = some [.tx (BitVec.ofNat 38 (0x3000000000 + len * 256 + op))] := by
  rw [lengthCommand, if_pos fits, shorthand_eq_add len low, presentCommand_eq (by omega), Nat.add_assoc]

theorem lengthCommand_refuses (op : Nat) {len : Nat} (long : 31 < len) : lengthCommand op len = none :=
  if_neg (by omega)

/-- Settles O7: each line presents the transaction of its fields, and the range check of each line refuses the rest. -/
theorem assemblerLines : Obligations.AssemblerLines := by
  refine ⟨fun i b => assembleLine_wrbuf, fun i => assembleLine_rdbuf, fun w fits => ?_, rfl, rfl, rfl,
    fun n fits => ⟨assembleLine_configure fits, assembleLine_configure_noassert fits⟩,
    fun len fits => ⟨lengthCommand_eq (by omega) fits, lengthCommand_eq (by omega) fits, lengthCommand_eq (by omega) fits⟩,
    fun i b wide => if_neg (by omega), fun i wide => if_neg (by omega), fun n na wide => if_neg (by omega),
    fun len wide => ⟨lengthCommand_refuses 2 wide, lengthCommand_refuses 3 wide, lengthCommand_refuses 4 wide⟩⟩
  rw [assembleLine, if_pos fits, presentCommand_eq fits]

/-- Settles O6: the decoder and the assembler, evaluated on the example words and lines of R79. -/
theorem encodingExamples : Obligations.EncodingExamples := by
  unfold Obligations.EncodingExamples
  decide

end Sys2Proof.Machine
end

section
/-! COUNT and PARITY as functions of the bits (40_bit_parity R100, R101, R104). -/

namespace Sys2Proof.Machine

/-- The count below `k` is the number of positions below `k` that hold a 1. -/
theorem countBelow_eq_length_filter {w : Nat} (x : BitVec w) (k : Nat) :
    countBelow x k = ((List.range k).filter fun i => x.getLsbD i).length := by
  induction k with
  | zero => rfl
  | succ k ih =>
    rw [countBelow_succ, ih, List.range_succ, List.filter_append, List.length_append]
    cases bit : x.getLsbD k <;> simp [bit]

theorem count_le {w : Nat} (x : BitVec w) : count x ≤ w := countBelow_le x w

theorem count_allOnes (w : Nat) : count (BitVec.allOnes w) = w := by
  have ones : ∀ i ∈ List.range w, (BitVec.allOnes w).getLsbD i = true := by simp
  rw [count, countBelow_eq_length_filter, List.filter_eq_self.mpr ones, List.length_range]

/-- The parity fits every width: at width 0 the count is 0. -/
theorem parity_toNat {w : Nat} (x : BitVec w) : (parity x).toNat = count x % 2 := by
  have bound : count x ≤ w := count_le x
  have wide : w < 2 ^ w := Nat.lt_two_pow_self
  have halved : count x % 2 ≤ count x := Nat.mod_le _ _
  rw [parity, BitVec.toNat_ofNat, Nat.mod_eq_of_lt (by omega)]

theorem parityBit_toNat {w : Nat} (x : BitVec w) : (parityBit x).toNat = count x % 2 := by
  rcases Nat.mod_two_eq_zero_or_one (count x) with even | odd
  · simp [parityBit, even]
  · simp [parityBit, odd]

/-- PARITY is its bit 0, zero-extended (R101). -/
theorem parity_eq_setWidth {w : Nat} (x : BitVec w) : parity x = (BitVec.ofBool (parityBit x)).setWidth w := by
  rw [parity, ← parityBit_toNat, ← BitVec.toNat_ofBool, BitVec.ofNat_toNat]

/-- The parity of a sum is the exclusive or of the parities. -/
theorem odd_add_eq_xor (a b : Nat) : ((a + b) % 2 == 1) = ((a % 2 == 1) ^^ (b % 2 == 1)) := by
  rcases Nat.mod_two_eq_zero_or_one a with ha | ha <;> rcases Nat.mod_two_eq_zero_or_one b with hb | hb <;>
    simp [Nat.add_mod, ha, hb]

/-- The parity below `k` is the exclusive or of the bits there. -/
theorem countBelow_odd_eq_foldl {w : Nat} (x : BitVec w) (k : Nat) :
    (countBelow x k % 2 == 1) = (List.range k).foldl (fun p i => p ^^ x.getLsbD i) false := by
  induction k with
  | zero => rfl
  | succ k ih =>
    rw [List.range_succ, List.foldl_append, List.foldl_cons, List.foldl_nil, ← ih, countBelow_succ, odd_add_eq_xor]
    cases x.getLsbD k <;> rfl

theorem parityBit_eq_foldl {w : Nat} (x : BitVec w) :
    parityBit x = (List.range w).foldl (fun p i => p ^^ x.getLsbD i) false :=
  countBelow_odd_eq_foldl x w

/-- Settles O19: the count by its recursion on the bits; PARITY by its value and as its zero-extended bit 0. -/
theorem countAndParity : Obligations.CountAndParity := by
  intro w x
  refine ⟨countBelow_eq_length_filter x w, count_le x, count_allOnes w, parity_toNat x, fun wide => ?_⟩
  simp [parity_eq_setWidth, wide]

/-- Settles O21: PARITY is its bit 0 zero-extended, and that bit is linear (`parityBit_xor`); the dot product is the fold of the
bits of the AND. -/
theorem parityIsLinear : Obligations.ParityIsLinear := by
  intro w a b
  constructor
  · simp only [parity_eq_setWidth, parityBit_xor, BitVec.ofBool_xor_ofBool, ← BitVec.setWidth_xor]
  · simp only [parityBit_eq_foldl, BitVec.getLsbD_and]

end Sys2Proof.Machine
end

section
/-! COUNT and PARITY of a byte sequence, and of its big-endian integer (40_bit_parity R102). -/

namespace Sys2Proof.Machine

theorem countBytes_eq_sum (bs : List Byte) : countBytes bs = (bs.map fun b => count b).sum := by
  induction bs with
  | nil => rfl
  | cons b bs ih => rw [countBytes, ih, List.map_cons, List.sum_cons]

theorem countBytes_concat (bs : List Byte) (b : Byte) : countBytes (bs ++ [b]) = countBytes bs + count b := by
  simp only [countBytes_eq_sum, List.map_append, List.sum_append, List.map_singleton, List.sum_singleton]

theorem countBytes_le (bs : List Byte) : countBytes bs ≤ 8 * bs.length := by
  induction bs with
  | nil => rfl
  | cons b bs ih =>
    have : count b ≤ 8 := count_le b
    rw [countBytes, List.length_cons]
    omega

theorem parityBytes_eq_foldr (bs : List Byte) : parityBytes bs = (bs.map fun b => parityBit b).foldr xor false := by
  induction bs with
  | nil => rfl
  | cons b bs ih => rw [parityBytes, ih, List.map_cons, List.foldr_cons]

/-- The XOR of the parities is the parity of the sum of the counts. -/
theorem parityBytes_eq_countBytes_odd (bs : List Byte) : parityBytes bs = (countBytes bs % 2 == 1) := by
  induction bs with
  | nil => rfl
  | cons b bs ih => rw [parityBytes, ih, parityBit, countBytes, odd_add_eq_xor]

/-- The count below `j + k` is the count below `j` and that of the `k` bits from `j` on. -/
theorem countBelow_add {w : Nat} (x : BitVec w) (j k : Nat) :
    countBelow x (j + k) = countBelow x j + countBelow (x >>> j) k := by
  induction k with
  | zero => rfl
  | succ k ih => rw [← Nat.add_assoc, countBelow_succ, ih, countBelow_succ, BitVec.getLsbD_ushiftRight, Nat.add_assoc]

/-- Two values side by side hold the one bits of both. -/
theorem count_append {v w : Nat} (x : BitVec v) (y : BitVec w) : count (x ++ y) = count x + count y := by
  have low : countBelow (x ++ y) w = count y := countBelow_congr fun i hi => by simp [BitVec.getLsbD_append, hi]
  have high : countBelow ((x ++ y) >>> w) v = count x := countBelow_congr fun i _ => by simp [BitVec.getLsbD_append]
  calc countBelow (x ++ y) (v + w) = countBelow (x ++ y) (w + v) := congrArg _ (Nat.add_comm v w)
    _ = count y + count x := by rw [countBelow_add, low, high]
    _ = count x + count y := Nat.add_comm _ _

/-- The big-endian integer of a byte sequence (R102, 20_memory R51). -/
def bytesInteger (bs : List Byte) : Nat := bs.foldl (fun v b => v * 256 + b.toNat) 0

theorem bytesInteger_concat (bs : List Byte) (b : Byte) : bytesInteger (bs ++ [b]) = bytesInteger bs * 256 + b.toNat := by
  rw [bytesInteger, List.foldl_append, List.foldl_cons, List.foldl_nil, bytesInteger]

/-- A last byte stands below the integer of those before it. -/
theorem ofNat_mul_256_add (w v : Nat) (b : Byte) : BitVec.ofNat (w + 8) (v * 256 + b.toNat) = BitVec.ofNat w v ++ b := by
  apply BitVec.eq_of_getLsbD_eq
  intro i hi
  rw [BitVec.getLsbD_ofNat, BitVec.getLsbD_append, BitVec.getLsbD_ofNat, Nat.mul_comm v 256,
    show 256 = 2 ^ 8 by rfl, Nat.testBit_two_pow_mul_add _ b.isLt]
  by_cases low : i < 8
  · simp [hi, low, BitVec.getLsbD]
  · have above : i - 8 < w := by omega
    simp [hi, low, above]

/-- The fold of R102 counts the one bits of the big-endian integer. -/
theorem countBytes_eq_count_bytesInteger (bs : List Byte) :
    countBytes bs = count (BitVec.ofNat (8 * bs.length) (bytesInteger bs)) := by
  induction bs using List.reverseRecOn with
  | nil => rfl
  | append_singleton bs b ih =>
    rw [countBytes_concat, ih, bytesInteger_concat, List.length_append, List.length_singleton, Nat.mul_add, Nat.mul_one,
      ofNat_mul_256_add, count_append]

/-- Settles O20: the folds by induction on the bytes; the integer's count by induction from the last byte, which stands below
the others; its parity is the parity of that count. -/
theorem byteSequenceFold : Obligations.ByteSequenceFold := by
  refine ⟨fun bs => ⟨countBytes_eq_sum bs, parityBytes_eq_foldr bs⟩, rfl, rfl,
    fun bs => ⟨countBytes_eq_count_bytesInteger bs, ?_⟩⟩
  rw [parityBytes_eq_countBytes_odd, countBytes_eq_count_bytesInteger, parityBit, bytesInteger]

end Sys2Proof.Machine
end

section
/-! The PARITY command (40_bit_parity R103). -/

namespace Sys2Proof.Machine

/-- The bytes of an operand are those at its indexes. -/
theorem State.bytes_eq_map_byteAt (s : State) {len : Nat} (fits : len ≤ 16) :
    s.bytes len = (List.range len).map fun i => s.byteAt i := by
  refine List.ext_getElem (by simp [State.bytes, fits]) fun i hi _ => ?_
  have below : i < 16 := by simp [State.bytes] at hi; omega
  have index : Fin.ofNat 16 i = ⟨i, below⟩ := Fin.ext (Nat.mod_eq_of_lt below)
  rw [List.getElem_map, List.getElem_range, State.byteAt, index]
  simp [State.bytes]

/-- What PARITY counts over its operand (R103's loop). -/
theorem State.countBytes_bytes (s : State) {len : Nat} (fits : len ≤ 16) :
    countBytes (s.bytes len) = ((List.range len).map fun i => count (s.byteAt i)).sum := by
  rw [s.bytes_eq_map_byteAt fits, countBytes_eq_sum, List.map_map]
  rfl

/-- The count of the largest operand is 128, which fits RESULT.COUNT. -/
theorem State.countBytes_bytes_le (s : State) (len : Nat) : countBytes (s.bytes len) ≤ 128 := by
  have bound : countBytes (s.bytes len) ≤ 8 * (s.bytes len).length := countBytes_le _
  have short : (s.bytes len).length ≤ 16 := by simp [State.bytes]
  omega

theorem State.ended_readOperand_ret (s : State) (l : Nat) (r : Result) : s.Ended ((s.readOperand l).ret r) :=
  ⟨rfl, rfl, rfl, rfl⟩

/-- Settles O22: the two cases of PARITY; the first only records an undefined operand and ends with the count in RESULT, the
second is the fault LENGTH. -/
theorem parityCommand : Obligations.ParityCommand := by
  intro s len
  rcases execParity_cases len s with ⟨long, runs⟩ | ⟨fits, runs⟩
  · refine ⟨fun short => absurd long (Nat.not_lt.mpr short), fun _ => ⟨_, runs, ?_, ?_⟩⟩
    · exact s.commandFaulted_raise .length
    · exact s.sameInstance_raise .command .length
  · refine ⟨fun _ => ⟨_, runs, ?_, s.ended_readOperand_ret len _, fun _ => ⟨rfl, rfl⟩, ?_, exec_outside (i := .parity len) runs⟩,
      fun long => absurd long (Nat.not_lt.mpr fits)⟩
    · rw [← s.countBytes_bytes fits]
      exact ⟨rfl, s.countBytes_bytes_le len⟩
    · exact (s.sameInstance_readOperand len).trans (State.sameInstance_ret _ _)

end Sys2Proof.Machine
end

section
/-! Counting bits (40_bit_parity R100): one more bit, no bits, and no high bits. -/

namespace Sys2Proof.Machine

/-- Setting one free bit adds 1 to the count below every `k` past it. -/
theorem countBelow_of_set_bit {w p : Nat} {x y : BitVec w} (off : x.getLsbD p = false) (on : y.getLsbD p = true)
    (same : ∀ i, i ≠ p → y.getLsbD i = x.getLsbD i) (k : Nat) :
    countBelow y k = countBelow x k + if p < k then 1 else 0 := by
  induction k with
  | zero => rfl
  | succ k ih =>
    rw [countBelow_succ, countBelow_succ, ih]
    rcases Nat.lt_trichotomy p k with below | rfl | above
    · simp [same k (by omega), below, Nat.lt_succ_of_lt below]; omega
    · simp [off, on]
    · simp [same k (by omega), Nat.not_lt.mpr above.le, show ¬p < k + 1 by omega]

theorem count_eq_zero_iff {w : Nat} (x : BitVec w) : count x = 0 ↔ x = 0#w := by
  rw [count, countBelow_eq_length_filter, List.length_eq_zero_iff, List.filter_eq_nil_iff]
  constructor
  · intro none
    exact BitVec.eq_of_getLsbD_eq fun i hi => by simpa using none i (List.mem_range.mpr hi)
  · rintro rfl
    simp

/-- No bit from `k` up: the count is the count below `k`. -/
theorem count_eq_countBelow {w k : Nat} {x : BitVec w} (hk : k ≤ w) (high : ∀ i, k ≤ i → x.getLsbD i = false) :
    count x = countBelow x k := by
  have stable : ∀ j, k ≤ j → countBelow x j = countBelow x k := fun j hj => by
    induction j, hj using Nat.le_induction with
    | base => rfl
    | succ j hj ih => rw [countBelow_succ, high j hj, ih, Bool.toNat_false, Nat.add_zero]
  exact stable w hk

end Sys2Proof.Machine
end

section
/-! `Msel(N)` as a search (41_matrix_builder R110), and the columns: the integers of weight at least 2 in ascending order
(R112). -/

namespace Sys2Proof.Machine

/-- The search of R110 ends at the smallest number of check bits that serves `N`, for every `N` that 8 check bits serve. -/
theorem msel_isLeast {n : Nat} (served : n ≤ 2 ^ 8 - 8 - 1) :
    1 ≤ msel n ∧ n ≤ 2 ^ msel n - msel n - 1 ∧ ∀ m, 1 ≤ m → m < msel n → 2 ^ m - m - 1 < n := by
  cases search : (List.range' 1 8).find? (fun m => decide (n ≤ 2 ^ m - m - 1)) with
  | none => exact absurd (decide_eq_true served) (List.find?_eq_none.mp search 8 (by decide))
  | some m =>
    obtain ⟨enough, searched, tooFew⟩ := List.find?_range'_eq_some.mp search
    have found : msel n = m := by simp [msel, search]
    rw [found]
    refine ⟨(List.mem_range'_1.mp searched).1, of_decide_eq_true enough, fun j start below => ?_⟩
    simpa using tooFew j start below

/-- Settles O23: the search of R110 stops at the least `m`; the four printed values are computed. -/
theorem checkBitCount : Obligations.CheckBitCount :=
  ⟨fun _ fits => msel_isLeast (fits.trans (by decide)), by decide, by decide, by decide, by decide⟩

/-- `COUNT(i)` of a candidate for a column: the enumeration of R112 stays below `2 ^ 8`. -/
def weight (i : Nat) : Nat := count (BitVec.ofNat 8 i)

/-- The candidates that R112 takes. -/
def heavy (i : Nat) : Bool := decide (2 ≤ weight i)

theorem weight_zero : weight 0 = 0 := rfl

theorem weight_eq_zero_iff {i : Nat} (small : i < 2 ^ 8) : weight i = 0 ↔ i = 0 := by
  rw [weight, count_eq_zero_iff]
  constructor
  · intro h
    exact Nat.eq_zero_of_dvd_of_lt (Nat.dvd_of_mod_eq_zero (congrArg BitVec.toNat h)) small
  · rintro rfl
    rfl

theorem weight_two_pow_add {m i : Nat} (hm : m < 8) (hi : i < 2 ^ m) : weight (2 ^ m + i) = weight i + 1 := by
  have bits := Nat.testBit_two_pow_mul_add 1 hi
  rw [Nat.mul_one] at bits
  have top : i.testBit m = false := Nat.testBit_lt_two_pow hi
  have counted := countBelow_of_set_bit (x := BitVec.ofNat 8 i) (y := BitVec.ofNat 8 (2 ^ m + i)) (p := m)
    (by simp [BitVec.getLsbD_ofNat, top]) (by simp [BitVec.getLsbD_ofNat, bits, hm]) (fun j hj => ?_) 8
  · simpa [weight, count, hm] using counted
  · rw [BitVec.getLsbD_ofNat, BitVec.getLsbD_ofNat, bits]
    split
    · rfl
    · have high : i.testBit j = false := Nat.testBit_lt_two_pow (hi.trans_le (Nat.pow_le_pow_right two_pos (by omega)))
      have other : (1 : Nat).testBit (j - m) = false := by
        rw [← Bool.not_eq_true, Nat.testBit_one_eq_true_iff_self_eq_zero]
        omega
      rw [high, other]

theorem weight_two_pow {m : Nat} (hm : m < 8) : weight (2 ^ m) = 1 := by
  rw [← Nat.add_zero (2 ^ m), weight_two_pow_add hm (Nat.two_pow_pos m), weight_zero]

/-- A candidate with top bit `m` is heavy unless it is `2 ^ m` itself. -/
theorem heavy_two_pow_add {m i : Nat} (hm : m < 8) (hi : i < 2 ^ m) : heavy (2 ^ m + i) = true ↔ i ≠ 0 := by
  have zero := weight_eq_zero_iff (hi.trans (Nat.pow_lt_pow_right one_lt_two hm))
  rw [heavy, decide_eq_true_eq, weight_two_pow_add hm hi, ne_eq, ← zero]
  omega

/-- Every integer with top bit `m` is heavy, but for `2 ^ m`. -/
theorem count_heavy_top_bit {m : Nat} (hm : m < 8) : Nat.count (fun i => heavy (2 ^ m + i) = true) (2 ^ m) = 2 ^ m - 1 := by
  obtain ⟨k, hk⟩ : ∃ k, 2 ^ m = k + 1 := Nat.exists_eq_add_one.mpr (Nat.two_pow_pos m)
  have single : ¬heavy (2 ^ m + 0) = true := fun h => (heavy_two_pow_add hm (Nat.two_pow_pos m)).mp h rfl
  have others : ∀ i < k, heavy (2 ^ m + (i + 1)) = true := fun i hi =>
    (heavy_two_pow_add hm (by omega)).mpr i.succ_ne_zero
  calc Nat.count (fun i => heavy (2 ^ m + i) = true) (2 ^ m)
    _ = Nat.count (fun i => heavy (2 ^ m + i) = true) (k + 1) := congrArg _ hk
    _ = k := by rw [Nat.count_succ', if_neg single, Nat.count_of_forall others, Nat.add_zero]
    _ = 2 ^ m - 1 := by omega

/-- R110's count: `2 ^ m - m - 1` of the `m`-bit integers are heavy. -/
theorem count_heavy_two_pow {m : Nat} (hm : m ≤ 8) : Nat.count (fun i => heavy i = true) (2 ^ m) = 2 ^ m - m - 1 := by
  induction m with
  | zero => decide
  | succ m ih =>
    have large : m < 2 ^ m := Nat.lt_two_pow_self
    rw [Nat.pow_succ, Nat.mul_two, Nat.count_add, ih (by omega), count_heavy_top_bit hm]
    omega

/-- The candidates taken from `0 .. n - 1`, in ascending order. -/
def heavyBelow (n : Nat) : List Nat := (List.range n).filter heavy

theorem length_heavyBelow (n : Nat) : (heavyBelow n).length = Nat.count (fun i => heavy i = true) n := by
  simp [heavyBelow, Nat.count, List.countP_eq_length_filter]

/-- The integer at place `j` is heavy and has `j` heavy integers below it. -/
theorem heavyBelow_getElem? {n j c : Nat} (h : (heavyBelow n)[j]? = some c) :
    c < n ∧ heavy c = true ∧ (heavyBelow c).length = j := by
  induction n with
  | zero => simp [heavyBelow] at h
  | succ n ih =>
    have last : heavyBelow (n + 1) = heavyBelow n ++ [n].filter heavy := by
      rw [heavyBelow, List.range_succ, List.filter_append, heavyBelow]
    rw [last, List.getElem?_append] at h
    split at h
    · obtain ⟨below, taken, rank⟩ := ih h
      exact ⟨below.trans n.lt_succ_self, taken, rank⟩
    · cases taken : heavy n <;> simp [taken, List.getElem?_singleton] at h
      obtain ⟨place, rfl⟩ := h
      exact ⟨n.lt_succ_self, taken, by omega⟩

/-- The columns are the first `N` heavy integers below `2 ^ M`; 0 is not heavy, so the enumeration may as well start there. -/
theorem columns_eq_take (m n : Nat) : columns m n = (heavyBelow (2 ^ m)).take n := by
  have zero : heavy 0 = false := by decide
  have start : List.range (2 ^ m) = 0 :: List.range' 1 (2 ^ m - 1) := by
    rw [List.range_eq_range', ← Nat.sub_add_cancel (Nat.two_pow_pos m), List.range'_succ, Nat.add_sub_cancel]
  rw [heavyBelow, start, List.filter_cons_of_neg (by simp [zero])]
  rfl

/-- There are as many columns as R110 promises. -/
theorem length_columns {m n : Nat} (hm : m ≤ 8) (enough : n ≤ 2 ^ m - m - 1) : (columns m n).length = n := by
  rw [columns_eq_take, List.length_take, length_heavyBelow, count_heavy_two_pow hm, Nat.min_eq_left enough]

/-- `col(j)` (R112). -/
theorem columns_getElem?_some {m n j c : Nat} (h : (columns m n)[j]? = some c) :
    c < 2 ^ m ∧ heavy c = true ∧ (heavyBelow c).length = j := by
  rw [columns_eq_take, List.getElem?_take] at h
  split at h
  · exact heavyBelow_getElem? h
  · cases h

theorem heavy_pos {c : Nat} (h : heavy c = true) : 1 ≤ c := by
  refine Nat.one_le_iff_ne_zero.mpr ?_
  rintro rfl
  exact absurd h (by decide)

/-- A legal `N` has `N` columns (R110, R112). -/
theorem length_columns_msel {n : Nat} (small : 1 ≤ n) (large : n ≤ 120) : (columns (msel n) n).length = n := by
  obtain ⟨-, searched, -⟩ := msel_bounds small large
  obtain ⟨-, enough, -⟩ := msel_isLeast (n := n) (large.trans (by decide))
  exact length_columns (searched.trans (by decide)) enough

/-- Settles O25: the columns are the first of the heavy integers below `2 ^ M`, the one at place `j` has `j` of them below it,
and R110 leaves enough of them. -/
theorem columnsAreTheHeavyIntegers : Obligations.ColumnsAreTheHeavyIntegers := by
  refine ⟨fun n small large => ⟨length_columns_msel small large, fun j hj => ?_⟩, by decide⟩
  have inside : j < (columns (msel n) n).length := by rwa [length_columns_msel small large]
  have taken := List.getElem?_eq_getElem inside
  obtain ⟨below, isHeavy, rank⟩ := columns_getElem?_some taken
  exact ⟨_, taken, heavy_pos isHeavy, Nat.le_sub_one_of_lt below, of_decide_eq_true isHeavy, rank⟩

end Sys2Proof.Machine
end

section
/-! The parity-matrix product as separate bits (42_encoder R130): each row parity and the fold stand at a place of their own. -/

namespace Sys2Proof.Machine

/-! One bit in its place, and the OR of a value with a bit that it leaves free. -/

section
variable {n p : Nat} (inside : p < n)
include inside

theorem getLsbD_placeBit (b : Bool) (i : Nat) : (placeBit n b p).getLsbD i = (decide (i = p) && b) := by
  rw [placeBit, place, BitVec.getLsbD_shiftLeft, BitVec.getLsbD_setWidth, BitVec.getLsbD_ofBool]
  rcases Nat.lt_trichotomy i p with below | rfl | above
  · simp [below, below.ne]
  · simp [inside, Nat.zero_lt_of_lt inside]
  · simp [above.ne', show i - p ≠ 0 by omega]

theorem count_or_placeBit {x : BitVec n} (free : x.getLsbD p = false) (b : Bool) :
    count (x ||| placeBit n b p) = count x + b.toNat := by
  cases b with
  | false => simp [placeBit, place]
  | true =>
    have counted := countBelow_of_set_bit (y := x ||| placeBit n true p) free (by simp [getLsbD_placeBit inside])
      (fun i other => by simp [getLsbD_placeBit inside, other]) n
    rwa [if_pos inside] at counted

theorem parityBit_or_placeBit {x : BitVec n} (free : x.getLsbD p = false) (b : Bool) :
    parityBit (x ||| placeBit n b p) = (parityBit x ^^ b) := by
  rw [parityBit, count_or_placeBit inside free, odd_add_eq_xor, parityBit]
  cases b <;> rfl

theorem toNat_or_placeBit {x : BitVec n} (free : x.getLsbD p = false) (b : Bool) :
    (x ||| placeBit n b p).toNat = x.toNat + b.toNat * 2 ^ p := by
  have disjoint : x &&& placeBit n b p = 0#n := BitVec.eq_of_getLsbD_eq fun i _ => by
    by_cases here : i = p
    · simp [here, free]
    · simp [getLsbD_placeBit inside, here]
  rw [← BitVec.add_eq_or_of_and_eq_zero _ _ disjoint, BitVec.toNat_add_of_and_eq_zero disjoint, placeBit,
    place_toNat _ (by omega), BitVec.toNat_ofBool, Nat.shiftLeft_eq]

theorem parityBit_placeBit (b : Bool) : parityBit (placeBit n b p) = b := by
  simpa using parityBit_or_placeBit inside (x := 0#n) (by simp) b

theorem and_placeBit (x : BitVec n) (b : Bool) : x &&& placeBit n b p = placeBit n (x.getLsbD p && b) p :=
  BitVec.eq_of_getLsbD_eq fun i _ => by
    rw [BitVec.getLsbD_and, getLsbD_placeBit inside, getLsbD_placeBit inside]
    by_cases here : i = p <;> simp [here]

end

theorem one_shiftLeft_eq_placeBit (e : Nat) : 1#128 <<< e = placeBit 128 true e := rfl

/-! The bits of the product. -/

section
variable (emat : Vector Wide 7) {m : Nat} (v : Wide)

theorem rowParities_succ (k : Nat) :
    rowParities emat m v (k + 1) = rowParities emat m v k ||| placeBit 128 (parityBit (row emat k &&& v)) (m - k) := rfl

theorem pmp_eq_or_placeBit :
    pmp emat m v = rowParities emat m v m ||| placeBit 128 (parityBit (v ^^^ rowParities emat m v m)) 0 := by
  simp [pmp, placeBit, place]

variable (hm : m < 128)
include hm

/-- The next row parity's place is free. -/
theorem rowParities_free {k : Nat} (hk : k < m) : (rowParities emat m v k).getLsbD (m - k) = false := by
  simp [rowParities_getLsbD emat m v hm k hk.le]

/-- Bit 0 is left to the fold. -/
theorem rowParities_getLsbD_zero : (rowParities emat m v m).getLsbD 0 = false := by
  rw [rowParities_getLsbD emat m v hm m le_rfl]
  simp

theorem pmp_getLsbD_row {k : Nat} (hk : k < m) : (pmp emat m v).getLsbD (m - k) = parityBit (row emat k &&& v) := by
  have index : m - (m - k) = k := by omega
  have pos : m - k ≠ 0 := by omega
  rw [pmp_eq_or_placeBit, BitVec.getLsbD_or, rowParities_getLsbD emat m v hm m le_rfl, getLsbD_placeBit (by omega), index]
  simp [pos, hk]

theorem pmp_getLsbD_high {b : Nat} (high : m < b) : (pmp emat m v).getLsbD b = false := by
  rw [pmp_eq_or_placeBit, BitVec.getLsbD_or, rowParities_getLsbD emat m v hm m le_rfl, getLsbD_placeBit (by omega)]
  simp [Nat.not_le.mpr high, Nat.ne_of_gt (Nat.zero_lt_of_lt high)]

/-- The product has the parity of the value: the fold at bit 0 makes up for the row parities. -/
theorem parityBit_pmp : parityBit (pmp emat m v) = parityBit v := by
  rw [pmp_eq_or_placeBit, parityBit_or_placeBit (by decide) (rowParities_getLsbD_zero emat v hm), parityBit_xor,
    Bool.xor_comm (parityBit v), ← Bool.xor_assoc, Bool.xor_self, Bool.false_xor]

end

end Sys2Proof.Machine
end

section
/-! The parity-check matrix and the syndromes of the codeword positions in closed form (41_matrix_builder R115, R120). -/

namespace Sys2Proof.Machine

/-! A position at which the rows hold the bits of one integer, and its syndrome. -/

/-- The rows of `emat` hold the integer `c` at position `e`: row `k` its bit `k`, for each of the `m` rows. -/
structure ColumnAt (emat : Vector Wide 7) (m e c : Nat) : Prop where
  bits : ∀ k, k < m → (row emat k).getLsbD e = c.testBit k
  fits : c < 2 ^ m
  rows : m ≤ 8
  inside : e < 128

namespace ColumnAt

variable {emat : Vector Wide 7} {m e c : Nat} (h : ColumnAt emat m e c)
include h

theorem parityBit_row {k : Nat} (hk : k < m) : parityBit (row emat k &&& (1#128 <<< e)) = c.testBit k := by
  rw [one_shiftLeft_eq_placeBit, and_placeBit h.inside, parityBit_placeBit h.inside, Bool.and_true, h.bits k hk]

theorem rowParities_toNat {k : Nat} (hk : k ≤ m) :
    (rowParities emat m (1#128 <<< e) k).toNat = ((List.range k).map fun i => (c.testBit i).toNat * 2 ^ (m - i)).sum := by
  have narrow : m ≤ 8 := h.rows
  induction k with
  | zero => rfl
  | succ k ih =>
    rw [rowParities_succ, toNat_or_placeBit (by omega) (rowParities_free emat _ (by omega) hk), ih (by omega),
      h.parityBit_row hk, List.sum_range_succ]

theorem count_rowParities {k : Nat} (hk : k ≤ m) :
    count (rowParities emat m (1#128 <<< e) k) = countBelow (BitVec.ofNat 8 c) k := by
  have narrow : m ≤ 8 := h.rows
  induction k with
  | zero => exact (count_eq_zero_iff _).mpr rfl
  | succ k ih =>
    have inside : k < 8 := by omega
    rw [rowParities_succ, count_or_placeBit (by omega) (rowParities_free emat _ (by omega) hk), ih (by omega),
      h.parityBit_row hk, countBelow_succ, BitVec.getLsbD_ofNat, decide_eq_true inside, Bool.true_and]

/-- The row parities have the parity of the column. -/
theorem parityBit_rowParities : parityBit (rowParities emat m (1#128 <<< e) m) = parityBit (BitVec.ofNat 8 c) := by
  have short : count (BitVec.ofNat 8 c) = countBelow (BitVec.ofNat 8 c) m := count_eq_countBelow h.rows fun i hi => by
    have high : c.testBit i = false :=
      Nat.testBit_lt_two_pow (h.fits.trans_le (Nat.pow_le_pow_right two_pos hi))
    rw [BitVec.getLsbD_ofNat, high, Bool.and_false]
  rw [parityBit, parityBit, h.count_rowParities le_rfl, short]

/-- The syndrome of the position (R120): the column's bits reversed into `M .. 1`, and the complement of its parity at bit 0. -/
theorem syndromeOf_eq :
    syndromeOf emat m e = ((List.range m).map fun k => (c.testBit k).toNat * 2 ^ (m - k)).sum +
      (if parityBit (BitVec.ofNat 8 c) then 0 else 1) := by
  have narrow : m ≤ 8 := h.rows
  have fold : parityBit (1#128 <<< e ^^^ rowParities emat m (1#128 <<< e) m) = !parityBit (BitVec.ofNat 8 c) := by
    rw [parityBit_xor, h.parityBit_rowParities, one_shiftLeft_eq_placeBit,
      parityBit_placeBit h.inside, Bool.true_xor]
  rw [syndromeOf, pmp_eq_or_placeBit,
    toNat_or_placeBit (by decide) (rowParities_getLsbD_zero emat _ (by omega)), h.rowParities_toNat le_rfl, fold]
  cases parityBit (BitVec.ofNat 8 c) <;> rfl

end ColumnAt

/-! The rows of the matrix (R113 to R115). -/

theorem row_matrix {n k : Nat} (hk : k < 7) : row (matrix n) k = matrixRow n k := by
  simp [row, matrix, hk]

/-- Every bit of a row (R115). -/
theorem matrixRow_getLsbD {n k b : Nat} (small : 1 ≤ n) (large : n ≤ 120) (hk : k < msel n) (hb : b < 128) :
    (matrixRow n k).getLsbD b =
      if b = msel n - k then true
      else if msel n + 1 ≤ b ∧ b ≤ msel n + 1 + n - 1 then
        ((columns (msel n) n).getD (msel n + 1 + n - 1 - b) 0).testBit k
      else false := by
  obtain ⟨-, rows, -⟩ := msel_bounds small large
  rw [matrixRow, if_pos hk, one_shiftLeft_eq_placeBit, BitVec.getLsbD_or, getLsbD_placeBit (by omega), Bool.and_true,
    BitVec.getLsbD_shiftLeft, weightRow_getLsbD _ _ _ (by omega), length_columns_msel small large]
  by_cases own : b = msel n - k
  · simp [own]
  by_cases payload : msel n + 1 ≤ b ∧ b ≤ msel n + 1 + n - 1
  · have index : n - 1 - (b - (msel n + 1)) = msel n + 1 + n - 1 - b := by omega
    have notLow : ¬b < msel n + 1 := by omega
    have column : b - (msel n + 1) < n := by omega
    rw [if_neg own, if_pos payload, index]
    simp [own, notLow, hb, column]
  · rw [if_neg own, if_neg payload]
    rcases Nat.lt_or_ge b (msel n + 1) with low | high
    · simp [own, low]
    · have noColumn : ¬b - (msel n + 1) < n := by omega
      simp [own, noColumn]

/-- Settles O26: the row's own check bit and the shifted weight row do not overlap. -/
theorem matrixRowsClosedForm : Obligations.MatrixRowsClosedForm := by
  intro n k b small large hk hb
  obtain ⟨-, rows, -⟩ := msel_bounds small large
  exact (congrArg (BitVec.getLsbD · b) (row_matrix (by omega))).trans (matrixRow_getLsbD small large hk (by omega))

/-- The integer whose bits the rows hold at a position `0 .. N + M`: 0 at the overall parity bit, a power of two at a check bit,
and `colpos(e)` of R115 at a payload bit. -/
def positionColumn (n e : Nat) : Nat :=
  if e = 0 then 0
  else if e ≤ msel n then 2 ^ (msel n - e)
  else (columns (msel n) n).getD (msel n + 1 + n - 1 - e) 0

@[simp] theorem positionColumn_zero (n : Nat) : positionColumn n 0 = 0 := rfl

theorem positionColumn_check {n e : Nat} (pos : 1 ≤ e) (check : e ≤ msel n) :
    positionColumn n e = 2 ^ (msel n - e) := by
  rw [positionColumn, if_neg (by omega), if_pos check]

theorem positionColumn_payload {n e : Nat} (payload : msel n < e) :
    positionColumn n e = (columns (msel n) n).getD (msel n + 1 + n - 1 - e) 0 := by
  rw [positionColumn, if_neg (by omega), if_neg (by omega)]

/-- At a payload position stands one of the columns. -/
theorem columns_getElem?_positionColumn {n e : Nat} (small : 1 ≤ n) (large : n ≤ 120) (payload : msel n < e)
    (he : e ≤ n + msel n) : (columns (msel n) n)[msel n + 1 + n - 1 - e]? = some (positionColumn n e) := by
  have inside : msel n + 1 + n - 1 - e < (columns (msel n) n).length := by
    rw [length_columns_msel small large]
    omega
  rw [positionColumn_payload payload, List.getD_eq_getElem _ _ inside, List.getElem?_eq_getElem inside]

section
variable {n e : Nat} (small : 1 ≤ n) (large : n ≤ 120) (he : e ≤ n + msel n)
include small large he

theorem positionColumn_lt : positionColumn n e < 2 ^ msel n := by
  rcases Nat.lt_or_ge (msel n) e with payload | low
  · obtain ⟨fits, -, -⟩ := columns_getElem?_some (columns_getElem?_positionColumn small large payload he)
    exact fits
  · rcases Nat.eq_zero_or_pos e with rfl | pos
    · exact Nat.two_pow_pos _
    · rw [positionColumn_check pos low]
      exact Nat.pow_lt_pow_right one_lt_two (by omega)

/-- The rows of the matrix hold `positionColumn` at every position of a codeword. -/
theorem columnAt_matrix : ColumnAt (matrix n) (msel n) e (positionColumn n e) := by
  obtain ⟨-, rows, -⟩ := msel_bounds small large
  refine ⟨fun k hk => ?_, positionColumn_lt small large he, by omega, by omega⟩
  rw [row_matrix (by omega), matrixRow_getLsbD small large hk (by omega)]
  rcases Nat.lt_or_ge (msel n) e with payload | low
  · rw [if_neg (by omega), if_pos (by omega), positionColumn_payload payload]
  · have noPayload : ¬(msel n + 1 ≤ e ∧ e ≤ msel n + 1 + n - 1) := by omega
    rw [if_neg noPayload]
    rcases Nat.eq_zero_or_pos e with rfl | pos
    · rw [if_neg (by omega), positionColumn_zero, Nat.zero_testBit]
    · have own : e = msel n - k ↔ msel n - e = k := by omega
      rw [positionColumn_check pos low, Nat.testBit_two_pow]
      simp [own]

end

/-- The reversed bits of a power of two are the power of two that stands as far from the other end. -/
theorem sum_reversed_two_pow {m e : Nat} (pos : 1 ≤ e) (check : e ≤ m) :
    ((List.range m).map fun k => ((2 ^ (m - e)).testBit k).toNat * 2 ^ (m - k)).sum = 2 ^ e := by
  have others : ∀ k, k ≠ m - e → k ∈ List.range m → ((2 ^ (m - e)).testBit k).toNat * 2 ^ (m - k) = 0 := fun k hk _ => by
    simp [hk.symm]
  have once : List.count (m - e) (List.range m) = 1 :=
    List.count_eq_one_of_mem List.nodup_range (List.mem_range.mpr (by omega))
  have index : m - (m - e) = e := by omega
  rw [List.sum_map_eq_nsmul_single (m - e) _ others, once, index]
  simp

/-- Settles O27: the syndrome of a column (`ColumnAt.syndromeOf_eq`) for the three kinds of column: 0, a power of two, and
`colpos(e)`. -/
theorem syndromeClosedForm : Obligations.SyndromeClosedForm := by
  intro n e small large
  obtain ⟨-, rows, -⟩ := msel_bounds small large
  refine ⟨?_, fun pos check => ?_, fun payload top => ?_⟩
  · rintro rfl
    rw [(columnAt_matrix small large (Nat.zero_le _)).syndromeOf_eq]
    simp
  · have odd : parityBit (BitVec.ofNat 8 (2 ^ (msel n - e))) = true := by
      have one : count (BitVec.ofNat 8 (2 ^ (msel n - e))) = 1 := weight_two_pow (by omega)
      rw [parityBit, one]
      rfl
    rw [(columnAt_matrix small large (by omega)).syndromeOf_eq, positionColumn_check pos check,
      sum_reversed_two_pow pos check, if_pos odd, Nat.add_zero]
  · have data : msel n < e := payload
    rw [(columnAt_matrix small large (by omega)).syndromeOf_eq, positionColumn_payload data]

end Sys2Proof.Machine
end

section
/-! The syndromes of the codeword positions tell them apart, so the table builds (41_matrix_builder R117, R118, R121). -/

namespace Sys2Proof.Machine

/-! One syndrome. -/

theorem syndromeOf_pos (emat : Vector Wide 7) {m e : Nat} (hm : m < 128) (inside : e < 128) : 0 < syndromeOf emat m e := by
  refine Nat.pos_of_ne_zero fun zero => ?_
  have odd : parityBit (pmp emat m (1#128 <<< e)) = true := (parityBit_pmp emat _ hm).trans (parityBit_placeBit inside true)
  have empty : pmp emat m (1#128 <<< e) = 0#128 := BitVec.eq_of_toNat_eq zero
  rw [empty, parityBit_zero] at odd
  contradiction

/-- The product has no bit above `M`. -/
theorem syndromeOf_lt_two_pow (emat : Vector Wide 7) {m : Nat} (hm : m < 128) (e : Nat) : syndromeOf emat m e < 2 ^ (m + 1) :=
  Nat.lt_pow_two_of_testBit _ fun _ high => pmp_getLsbD_high emat _ hm high

/-- A syndrome holds the bits of the column, so equal syndromes come from equal columns. -/
theorem ColumnAt.eq_of_syndromeOf_eq {emat : Vector Wide 7} {m a b c d : Nat} (first : ColumnAt emat m a c)
    (second : ColumnAt emat m b d) (same : syndromeOf emat m a = syndromeOf emat m b) : c = d := by
  have narrow : m ≤ 8 := first.rows
  have product : pmp emat m (1#128 <<< a) = pmp emat m (1#128 <<< b) := BitVec.eq_of_toNat_eq same
  refine Nat.eq_of_testBit_eq fun k => ?_
  rcases Nat.lt_or_ge k m with hk | hk
  · rw [← first.parityBit_row hk, ← second.parityBit_row hk, ← pmp_getLsbD_row emat _ (by omega) hk,
      ← pmp_getLsbD_row emat _ (by omega) hk, product]
  · have high : 2 ^ m ≤ 2 ^ k := Nat.pow_le_pow_right two_pos hk
    rw [Nat.testBit_lt_two_pow (first.fits.trans_le high), Nat.testBit_lt_two_pow (second.fits.trans_le high)]

section
variable {n : Nat} (small : 1 ≤ n) (large : n ≤ 120)
include small large

/-- The three kinds of position are told apart by the weight of their column (0, 1, at least 2), and two of one kind by the
column's bit length or its rank among the heavy integers. -/
theorem positionColumn_kinds {e : Nat} (he : e ≤ n + msel n) :
    (e = 0 ∧ weight (positionColumn n e) = 0) ∨
    (1 ≤ e ∧ e ≤ msel n ∧ weight (positionColumn n e) = 1 ∧ Nat.log 2 (positionColumn n e) = msel n - e) ∨
    (msel n < e ∧ 2 ≤ weight (positionColumn n e) ∧
      (heavyBelow (positionColumn n e)).length = msel n + 1 + n - 1 - e) := by
  obtain ⟨-, rows, -⟩ := msel_bounds small large
  rcases Nat.lt_or_ge (msel n) e with payload | low
  · obtain ⟨-, isHeavy, rank⟩ := columns_getElem?_some (columns_getElem?_positionColumn small large payload he)
    exact .inr (.inr ⟨payload, of_decide_eq_true isHeavy, rank⟩)
  rcases Nat.eq_zero_or_pos e with rfl | pos
  · exact .inl ⟨rfl, weight_zero⟩
  · rw [positionColumn_check pos low]
    exact .inr (.inl ⟨pos, low, weight_two_pow (by omega), Nat.log_pow one_lt_two _⟩)

theorem positionColumn_injective {a b : Nat} (ha : a ≤ n + msel n) (hb : b ≤ n + msel n)
    (same : positionColumn n a = positionColumn n b) : a = b := by
  have first := positionColumn_kinds small large ha
  have second := positionColumn_kinds small large hb
  rw [same] at first
  omega

theorem syndromeOf_injective {a b : Nat} (ha : a ≤ n + msel n) (hb : b ≤ n + msel n)
    (same : syndromeOf (matrix n) (msel n) a = syndromeOf (matrix n) (msel n) b) : a = b :=
  positionColumn_injective small large ha hb
    ((columnAt_matrix small large ha).eq_of_syndromeOf_eq (columnAt_matrix small large hb) same)

/-- Every syndrome fits the index of SYN. -/
theorem syndromeOf_lt_256 (e : Nat) : syndromeOf (matrix n) (msel n) e < 256 := by
  obtain ⟨-, rows, -⟩ := msel_bounds small large
  calc syndromeOf (matrix n) (msel n) e
    _ < 2 ^ (msel n + 1) := syndromeOf_lt_two_pow _ (by omega) e
    _ ≤ 2 ^ 8 := Nat.pow_le_pow_right two_pos (by omega)

end

/-! The table. -/

theorem length_valid_set {t : Vector SynEntry 256} {x : Nat} (hx : x < 256) (free : (lookup t x).v = false) (pos : BitVec 7) :
    ((t.setIfInBounds x ⟨true, pos⟩).toList.filter fun y => y.v).length = (t.toList.filter fun y => y.v).length + 1 := by
  have inside : x < t.toList.length := by simpa using hx
  have off : ¬t.toList[x].v = true := by simpa [lookup, hx] using free
  rw [← List.countP_eq_length_filter, ← List.countP_eq_length_filter, Vector.toList_setIfInBounds, List.countP_set inside,
    if_neg off, if_pos rfl, Nat.sub_zero]

/-- Filling makes one more entry valid for each position: it stops where the entry is taken. -/
theorem length_valid_fillSyn {emat : Vector Wide 7} {m : Nat} {es : List Nat} {t u : Vector SynEntry 256}
    (small : ∀ e ∈ es, syndromeOf emat m e < 256) (filled : fillSyn emat m es t = some u) :
    (u.toList.filter fun y => y.v).length = (t.toList.filter fun y => y.v).length + es.length := by
  induction es generalizing t with
  | nil =>
    cases filled
    rfl
  | cons e es ih =>
    obtain ⟨free, rest⟩ := fillSyn_cons_some filled
    rw [ih (fun f hf => small f (List.mem_cons_of_mem e hf)) rest, length_valid_set (small e List.mem_cons_self) free,
      List.length_cons, Nat.add_right_comm, Nat.add_assoc]

/-- What the table of a legal `N` holds (R117): it builds without a collision, holds each position at its syndrome, and
nothing else. -/
theorem syndromeTable_of_legal {n : Nat} (small : 1 ≤ n) (large : n ≤ 120) :
    ∃ syn, syndromeTable n = some syn ∧
      (∀ e, e ≤ n + msel n → lookup syn (syndromeOf (matrix n) (msel n) e) = ⟨true, BitVec.ofNat 7 e⟩) ∧
      (∀ x, (∀ e, e ≤ n + msel n → x ≠ syndromeOf (matrix n) (msel n) e) → lookup syn x = SynEntry.zero) ∧
      (syn.toList.filter fun x => x.v).length = n + (msel n + 1) := by
  have position : ∀ e, e ∈ List.range (n + msel n + 1) ↔ e ≤ n + msel n := fun e =>
    List.mem_range.trans Nat.lt_succ_iff
  have fits : ∀ e ∈ List.range (n + msel n + 1), syndromeOf (matrix n) (msel n) e < 256 := fun e _ =>
    syndromeOf_lt_256 small large e
  have distinct : ((List.range (n + msel n + 1)).map (syndromeOf (matrix n) (msel n))).Nodup :=
    List.nodup_range.map_on fun a ha b hb => syndromeOf_injective small large ((position a).mp ha) ((position b).mp hb)
  obtain ⟨syn, built, written, others⟩ :=
    fillSyn_of_distinct (matrix n) (msel n) _ (Vector.replicate 256 SynEntry.zero) fits
      (fun e _ => by rw [lookup_empty]; rfl) distinct
  refine ⟨syn, built, fun e he => written e ((position e).mpr he), fun x hx => ?_, ?_⟩
  · rw [others x fun e he => hx e ((position e).mp he), lookup_empty]
  · have cleared : ((Vector.replicate 256 SynEntry.zero).toList.filter fun y => y.v).length = 0 := by
      rw [Vector.toList_replicate, List.filter_replicate_of_neg (by decide), List.length_nil]
    rw [length_valid_fillSyn fits built, cleared, List.length_range, Nat.zero_add, Nat.add_assoc]

/-- Settles O28: a syndrome of one flipped bit has odd weight, so it is not 0; it holds its position's column, and the columns
of the positions differ. -/
theorem syndromesAreDistinct : Obligations.SyndromesAreDistinct := by
  intro n small large
  obtain ⟨-, rows, -⟩ := msel_bounds small large
  obtain ⟨syn, built, -, -, valid⟩ := syndromeTable_of_legal small large
  refine ⟨fun e he => ⟨?_, ?_, syndromeOf_lt_256 small large e⟩, fun a b => syndromeOf_injective small large, syn, built,
    valid⟩
  · exact syndromeOf_pos _ (by omega) (by omega)
  · exact syndromeOf_lt_two_pow _ (by omega) e

end Sys2Proof.Machine
end

section
/-! The CONFIGURE command (41_matrix_builder R119, R122). -/

namespace Sys2Proof.Machine

theorem Result.zero_word : Result.zero.word = 0#32 := by decide

theorem Cfg.zero_word : Cfg.zero.word = 0#32 := by decide

theorem State.configure_of_legal (s : State) {n : Nat} (na : Bool) (small : 1 ≤ n) (large : n ≤ 120)
    {syn : Vector SynEntry 256} (built : syndromeTable n = some syn) :
    s.configure n na = (s.install (cfgOf n na) (maskOf (msel n + 1)) (matrix n) syn).ret Result.zero := by
  rw [State.configure, if_neg (by omega), built]

theorem State.commandFaulted_configureFails (s : State) (c : Cause) : s.CommandFaulted (s.configureFails c) c :=
  ⟨⟨rfl, rfl, rfl, rfl⟩, rfl, fun _ => ⟨rfl, rfl⟩, rfl, rfl, rfl⟩

/-- The rows from `M` up stay 0 (R114). -/
theorem row_matrix_unused {n k : Nat} (unused : msel n ≤ k) (hk : k ≤ 6) : row (matrix n) k = 0#128 := by
  rw [row_matrix (by omega), matrixRow, if_neg (by omega)]

/-- Settles O29: a legal `N` has a table, which CONFIGURE installs; any other is refused for its size. -/
theorem configureCommand : Obligations.ConfigureCommand := by
  intro s n na
  refine ⟨fun small large => ?_, fun illegal => ?_⟩
  · obtain ⟨syn, built, written, others, -⟩ := syndromeTable_of_legal small large
    have runs : exec (.configure n na) s = .next _ := congrArg Host.Outcome.next (s.configure_of_legal na small large built)
    exact ⟨_, runs, rfl, rfl, rfl, fun k => row_matrix_unused, written, others, Result.zero_word, ⟨rfl, rfl, rfl, rfl⟩,
      fun _ => ⟨rfl, rfl⟩, exec_outside runs⟩
  · have refused : s.configure n na = s.configureFails .configSize := if_pos (by omega)
    have runs : exec (.configure n na) s = .next _ := congrArg Host.Outcome.next refused
    exact ⟨_, runs, s.commandFaulted_configureFails .configSize, Cfg.zero_word, rfl⟩

end Sys2Proof.Machine
end

section
/-! The product over GF(2) (42_encoder R130, R131): its parts stand at places of their own, so their OR is an exclusive or. -/

namespace Sys2Proof.Machine

/-! One bit in its place, which may lie outside the word. -/

theorem getLsbD_placeBit_of_ne {n p i : Nat} (b : Bool) (other : i ≠ p) : (placeBit n b p).getLsbD i = false := by
  rw [placeBit, place, BitVec.getLsbD_shiftLeft, BitVec.getLsbD_setWidth, BitVec.getLsbD_ofBool]
  rcases Nat.lt_or_gt_of_ne other with below | above
  · simp [below]
  · simp [show i - p ≠ 0 by omega]

theorem placeBit_xor (n : Nat) (a b : Bool) (p : Nat) : placeBit n (a ^^ b) p = placeBit n a p ^^^ placeBit n b p := by
  rw [placeBit, place, ← BitVec.ofBool_xor_ofBool, BitVec.setWidth_xor, BitVec.shiftLeft_xor_distrib]
  rfl

/-- An OR with a bit whose place is free is an exclusive or. -/
theorem or_placeBit_eq_xor {n p : Nat} {x : BitVec n} (free : x.getLsbD p = false) (b : Bool) :
    x ||| placeBit n b p = x ^^^ placeBit n b p :=
  BitVec.eq_of_getLsbD_eq fun i _ => by
    rw [BitVec.getLsbD_or, BitVec.getLsbD_xor]
    by_cases here : i = p
    · simp [here, free]
    · simp [getLsbD_placeBit_of_ne b here]

section
variable (emat : Vector Wide 7) {m : Nat} (v : Wide)

/-- The first `k` row parities leave the places from `M - k` down free, for every `M`. -/
theorem rowParities_getLsbD_low {k b : Nat} (hk : k ≤ m) (low : b ≤ m - k) : (rowParities emat m v k).getLsbD b = false := by
  induction k with
  | zero => exact BitVec.getLsbD_zero
  | succ k ih =>
    rw [rowParities_succ, BitVec.getLsbD_or, ih (by omega) (by omega), getLsbD_placeBit_of_ne _ (by omega), Bool.or_false]

theorem rowParities_succ_eq_xor {k : Nat} (hk : k < m) :
    rowParities emat m v (k + 1) = rowParities emat m v k ^^^ placeBit 128 (parityBit (row emat k &&& v)) (m - k) := by
  rw [rowParities_succ, or_placeBit_eq_xor (rowParities_getLsbD_low emat v hk.le le_rfl)]

theorem pmp_eq_xor :
    pmp emat m v = rowParities emat m v m ^^^ placeBit 128 (parityBit (v ^^^ rowParities emat m v m)) 0 := by
  rw [pmp_eq_or_placeBit, or_placeBit_eq_xor (rowParities_getLsbD_low emat v le_rfl (Nat.zero_le _))]

/-- The row parities of an exclusive or, for every `M`. -/
theorem rowParities_linear (a b : Wide) {k : Nat} (hk : k ≤ m) :
    rowParities emat m (a ^^^ b) k = rowParities emat m a k ^^^ rowParities emat m b k := by
  induction k with
  | zero => exact BitVec.xor_zero.symm
  | succ k ih =>
    simp only [rowParities_succ_eq_xor emat _ hk, ih (Nat.le_of_succ_le hk), parityBit_and_xor, placeBit_xor]
    ac_rfl

theorem pmp_xor (m : Nat) (a b : Wide) : pmp emat m (a ^^^ b) = pmp emat m a ^^^ pmp emat m b := by
  simp only [pmp_eq_xor, rowParities_linear emat a b le_rfl, parityBit_xor, placeBit_xor]
  ac_rfl

theorem pmp_zero (m : Nat) : pmp emat m 0#128 = 0#128 := by
  have doubled := pmp_xor emat m 0#128 0#128
  rwa [BitVec.xor_self, BitVec.xor_self] at doubled

/-- The parity of the value and of its first `k` row parities together. -/
theorem parityBit_xor_rowParities (hm : m < 128) {k : Nat} (hk : k ≤ m) :
    parityBit (v ^^^ rowParities emat m v k) =
      (List.range k).foldl (fun x j => x ^^ parityBit (row emat j &&& v)) (parityBit v) := by
  induction k with
  | zero => exact congrArg parityBit BitVec.xor_zero
  | succ k ih =>
    rw [List.range_succ, List.foldl_append, List.foldl_cons, List.foldl_nil, ← ih (Nat.le_of_succ_le hk),
      rowParities_succ_eq_xor emat v hk, ← BitVec.xor_assoc, parityBit_xor, parityBit_placeBit (by omega)]

theorem pmp_getLsbD_zero : (pmp emat m v).getLsbD 0 = parityBit (v ^^^ rowParities emat m v m) := by
  rw [pmp_eq_or_placeBit, BitVec.getLsbD_or, rowParities_getLsbD_low emat v le_rfl (Nat.zero_le _),
    getLsbD_placeBit (by decide)]
  simp

end

/-- Settles O30: the row parities and the fold by their places; the fold's parity by induction on the rows. -/
theorem productBits : Obligations.ProductBits := by
  intro emat m v fits
  have hm : m < 128 := by omega
  refine ⟨fun k hk => pmp_getLsbD_row emat v hm hk, ?_, fun b high => pmp_getLsbD_high emat v hm high⟩
  rw [pmp_getLsbD_zero, parityBit_xor_rowParities emat v hm le_rfl]

/-- Settles O31: the product is an exclusive or of placed parities, each of them linear; 0 is `0 XOR 0`, and a flipped bit is a
value added. -/
theorem productIsLinear : Obligations.ProductIsLinear := by
  intro emat m
  refine ⟨pmp_xor emat m, pmp_zero emat m, fun c e => ?_⟩
  rw [pmp_xor, BitVec.toNat_xor, syndromeOf]

end Sys2Proof.Machine
end

section
/-! The ENCODE command (42_encoder R132 to R134). -/

namespace Sys2Proof.Machine

/-- A buffer value stands below bit `8 * l`. -/
theorem State.bufRead_lt (s : State) {l : Nat} (hl : l ≤ 16) : (s.bufRead l).toNat < 2 ^ (8 * l) :=
  Nat.lt_pow_two_of_testBit _ fun b high => by
    have clear := s.bufRead_getLsbD hl b
    rwa [decide_eq_false (Nat.not_lt.mpr high), Bool.false_and] at clear

theorem Cfg.len_bounds (c : Cfg) : 8 ≤ c.len ∧ c.len ≤ 16 := by
  unfold Cfg.len
  split <;> omega

theorem pmp_lt (emat : Vector Wide 7) {m : Nat} (v : Wide) (hm : m < 128) : (pmp emat m v).toNat < 2 ^ (m + 1) :=
  Nat.lt_pow_two_of_testBit _ fun _ high => pmp_getLsbD_high emat v hm high

/-- The value that ENCODE writes fits the buffer, for every `M` that CFG can hold (R134). -/
theorem State.encoded_lt (s : State) : (s.bufRead s.cfg.len ||| s.pmp (s.bufRead s.cfg.len)).toNat < 2 ^ (8 * s.cfg.len) := by
  have rows : s.cfg.m.toNat < 16 := s.cfg.m.isLt
  obtain ⟨bytes, hl⟩ := s.cfg.len_bounds
  have product : (s.pmp (s.bufRead s.cfg.len)).toNat < 2 ^ (8 * s.cfg.len) :=
    (pmp_lt _ _ (by omega)).trans_le (Nat.pow_le_pow_right two_pos (by omega))
  rw [BitVec.toNat_or]
  exact Nat.or_lt_two_pow (s.bufRead_lt hl) product

/-- The state after a command that has read its operand of `l` bytes, written `v` there, and ended with result `r`. -/
def State.rewriteOperand (s : State) (l : Nat) (v : Wide) (r : Result) : State := ((s.readOperand l).bufWrite l v).ret r

section
variable (s : State) {l : Nat} {v : Wide} {r : Result}

theorem State.bufRead_rewriteOperand (hl : l ≤ 16) (fits : v.toNat < 2 ^ (8 * l)) :
    (s.rewriteOperand l v r).bufRead l = v :=
  calc (s.rewriteOperand l v r).bufRead l
    _ = ((s.readOperand l).bufWrite l v).bufRead l := State.valueOf_congr _ fun _ _ => rfl
    _ = v := (s.readOperand l).bufRead_bufWrite hl fits

theorem State.operandDefined_rewriteOperand : (s.rewriteOperand l v r).OperandDefined l := fun i hi =>
  ((s.readOperand l).byteDef_bufWrite l v i).trans (if_pos hi)

theorem State.sameBufferFrom_rewriteOperand : s.SameBufferFrom l (s.rewriteOperand l v r) :=
  (s.readOperand l).sameBufferFrom_bufWrite l v

theorem State.ended_rewriteOperand : s.Ended (s.rewriteOperand l v r) := by
  simp [State.Ended, State.rewriteOperand]

theorem State.sameInstance_rewriteOperand : s.SameInstance (s.rewriteOperand l v r) :=
  ((s.readOperand l).sameInstance_bufWrite l v).trans (State.sameInstance_ret _ r)

theorem State.sameOutside_rewriteOperand : s.SameOutside (s.rewriteOperand l v r) := by
  simp [State.SameOutside, State.rewriteOperand]

end

theorem Cfg.precondition_iff (c : Cfg) (v : Wide) : c.precondition v = true ↔ v &&& ~~~c.payload = 0#128 := beq_iff_eq

theorem exec_encode_of_length {s : State} {len : Nat} (valid : s.cfg.valid = true) (wrong : len ≠ s.cfg.len) :
    exec (.encode len) s = .next (s.raise .command .length) := by
  simp [exec, execEncode, valid, wrong]

/-- ENCODE of a value it accepts: R132's precondition holds, or NOASSERT leaves it unchecked (R133). -/
theorem exec_encode_of_accepted {s : State} (valid : s.cfg.valid = true)
    (accepted : s.cfg.noassert = true ∨ s.bufRead s.cfg.len &&& ~~~s.cfg.payload = 0#128) :
    exec (.encode s.cfg.len) s =
      .next (s.rewriteOperand s.cfg.len (s.bufRead s.cfg.len ||| s.pmp (s.bufRead s.cfg.len)) Result.zero) := by
  rw [← Cfg.precondition_iff] at accepted
  have checked : (!s.cfg.noassert && !s.cfg.precondition (s.bufRead s.cfg.len)) = false := by
    rcases accepted with h | h <;> simp [h]
  simp [exec, execEncode, State.encodeValue, State.rewriteOperand, valid, checked]

/-- ENCODE of a value that it refuses. -/
theorem exec_encode_of_refused {s : State} (valid : s.cfg.valid = true) (checks : s.cfg.noassert = false)
    (dirty : s.bufRead s.cfg.len &&& ~~~s.cfg.payload ≠ 0#128) :
    exec (.encode s.cfg.len) s = .next ((s.readOperand s.cfg.len).raise .command .encodePrecond) := by
  rw [ne_eq, ← Cfg.precondition_iff, Bool.not_eq_true] at dirty
  simp [exec, execEncode, State.encodeValue, valid, checks, dirty]

/-- Settles O32: the faults before the operand is read, the fault of the precondition after it, and the write of a value that
fits the buffer. -/
theorem encodeCommand : Obligations.EncodeCommand := by
  intro s len
  refine ⟨fun unset => ?_, fun valid wrong => ?_, fun valid length checks dirty => ?_, fun valid length accepted => ?_⟩
  · exact ⟨_, execEncode_of_not_valid len unset, s.commandFaulted_raise .notConfigured, s.sameInstance_raise .command _⟩
  · exact ⟨_, exec_encode_of_length valid wrong, s.commandFaulted_raise .length, s.sameInstance_raise .command _⟩
  · subst length
    exact ⟨_, exec_encode_of_refused valid checks dirty, (s.readOperand s.cfg.len).commandFaulted_raise .encodePrecond,
      (s.sameInstance_readOperand s.cfg.len).trans (State.sameInstance_raise _ .command _)⟩
  · subst length
    exact ⟨_, exec_encode_of_accepted valid accepted, s.bufRead_rewriteOperand s.cfg.len_bounds.2 s.encoded_lt,
      s.operandDefined_rewriteOperand, s.sameBufferFrom_rewriteOperand, Result.zero_word, s.ended_rewriteOperand,
      s.sameInstance_rewriteOperand, s.sameOutside_rewriteOperand⟩

end Sys2Proof.Machine
end

section
/-! What ENCODE makes of a payload is a codeword (42_encoder R135). -/

namespace Sys2Proof.Machine

theorem getLsbD_maskOf {cs : Nat} (hc : cs < 128) (b : Nat) : (maskOf cs).getLsbD b = decide (b < cs) := by
  have pos : 0 < 2 ^ cs := Nat.two_pow_pos cs
  have top : (1#128 <<< cs).toNat = 2 ^ cs := by
    have fits : 2 ^ cs < 2 ^ 128 := Nat.pow_lt_pow_right one_lt_two hc
    rw [BitVec.toNat_shiftLeft, BitVec.toNat_ofNat, Nat.one_mod_two_pow (by decide), Nat.shiftLeft_eq, Nat.one_mul,
      Nat.mod_eq_of_lt fits]
  have value : (maskOf cs).toNat = 2 ^ cs - 1 := by
    rw [maskOf, BitVec.toNat_sub_of_le (by rw [BitVec.le_def, top]; exact pos), top]
    rfl
  rw [BitVec.getLsbD, value, Nat.testBit_two_pow_sub_one]

/-- Two values that agree but for bit 0, and in their parity, are equal. -/
theorem eq_of_parityBit_eq {x y : Wide} (bits : ∀ b, b ≠ 0 → x.getLsbD b = y.getLsbD b)
    (weight : parityBit x = parityBit y) : x = y := by
  have single : x ^^^ y = placeBit 128 ((x ^^^ y).getLsbD 0) 0 := BitVec.eq_of_getLsbD_eq fun b _ => by
    by_cases zero : b = 0
    · rw [zero, getLsbD_placeBit (by decide), decide_eq_true rfl, Bool.true_and]
    · rw [getLsbD_placeBit_of_ne _ zero, BitVec.getLsbD_xor, bits b zero, Bool.xor_self]
  have clear : (x ^^^ y).getLsbD 0 = false := by
    rw [← parityBit_placeBit (n := 128) (p := 0) (by decide) ((x ^^^ y).getLsbD 0), ← single, parityBit_xor, weight,
      Bool.xor_self]
  rw [← BitVec.xor_eq_zero_iff, single, clear]
  rfl

section
variable {n : Nat} (small : 1 ≤ n) (large : n ≤ 120)
include small large

/-- The payload bits `CS .. CS+N-1` (R132). -/
theorem getLsbD_payload (na : Bool) {b : Nat} (hb : b < 128) :
    (cfgOf n na).payload.getLsbD b = decide (msel n < b ∧ b ≤ n + msel n) := by
  obtain ⟨-, rows, -⟩ := msel_bounds small large
  have check : (cfgOf n na).cs.toNat = msel n + 1 := Nat.mod_eq_of_lt (by omega)
  have ones : (cfgOf n na).payload = maskOf n <<< (msel n + 1) := by
    rw [Cfg.payload, check, cfgOf_n_toNat na large, maskOf]
  rw [ones, BitVec.getLsbD_shiftLeft, getLsbD_maskOf (by omega), Bool.eq_iff_iff]
  simp only [Bool.and_eq_true, Bool.not_eq_true', decide_eq_true_eq, decide_eq_false_iff_not]
  omega

/-- Of the check field, row `k` holds its own check bit alone (R114, R115). -/
theorem row_matrix_and_of_check {k : Nat} (hk : k < msel n) {x : Wide} (check : ∀ b, msel n < b → x.getLsbD b = false) :
    row (matrix n) k &&& x = placeBit 128 (x.getLsbD (msel n - k)) (msel n - k) := by
  obtain ⟨-, rows, -⟩ := msel_bounds small large
  refine BitVec.eq_of_getLsbD_eq fun b hb => ?_
  rw [BitVec.getLsbD_and, row_matrix (by omega), matrixRow_getLsbD small large hk hb]
  by_cases own : b = msel n - k
  · rw [if_pos own, own, getLsbD_placeBit (by omega)]
    simp
  · rw [if_neg own, getLsbD_placeBit_of_ne _ own]
    by_cases high : msel n < b
    · rw [check b high, Bool.and_false]
    · rw [if_neg (by omega), Bool.false_and]

/-- The product leaves a value of check bits as it is: each row meets its own check bit alone, and the fold keeps the parity. -/
theorem pmp_of_check {x : Wide} (check : ∀ b, msel n < b → x.getLsbD b = false) : pmp (matrix n) (msel n) x = x := by
  obtain ⟨-, rows, -⟩ := msel_bounds small large
  refine eq_of_parityBit_eq (fun b pos => ?_) (parityBit_pmp _ x (by omega))
  rcases Nat.lt_or_ge (msel n) b with high | low
  · rw [check b high, pmp_getLsbD_high _ x (by omega) high]
  · obtain ⟨k, hk, rfl⟩ : ∃ k, k < msel n ∧ b = msel n - k := ⟨msel n - b, by omega, by omega⟩
    rw [pmp_getLsbD_row _ x (by omega) hk, row_matrix_and_of_check small large hk check, parityBit_placeBit (by omega)]

/-! A value `v` that meets the precondition, and its check bits. -/

section
variable {na : Bool} {v : Wide} (precondition : v &&& ~~~(cfgOf n na).payload = 0#128)
include precondition

theorem getLsbD_eq_false_of_precondition {b : Nat} (outside : b ≤ msel n ∨ n + msel n < b) : v.getLsbD b = false := by
  rcases Nat.lt_or_ge b 128 with hb | wide
  · have clear : (v &&& ~~~(cfgOf n na).payload).getLsbD b = false := by rw [precondition, BitVec.getLsbD_zero]
    have noPayload : ¬(msel n < b ∧ b ≤ n + msel n) := by omega
    rwa [BitVec.getLsbD_and, BitVec.getLsbD_not, getLsbD_payload small large na hb, decide_eq_false noPayload,
      decide_eq_true hb, Bool.not_false, Bool.and_true, Bool.and_true] at clear
  · exact BitVec.getLsbD_of_ge v b wide

/-- The payload and the check bits stand apart. -/
theorem getLsbD_precondition_or_pmp (b : Nat) :
    v.getLsbD b = false ∨ (pmp (matrix n) (msel n) v).getLsbD b = false := by
  obtain ⟨-, rows, -⟩ := msel_bounds small large
  rcases Nat.lt_or_ge (msel n) b with high | low
  · exact .inr (pmp_getLsbD_high _ v (by omega) high)
  · exact .inl (getLsbD_eq_false_of_precondition small large precondition (.inl low))

theorem codeword_eq_xor : v ||| pmp (matrix n) (msel n) v = v ^^^ pmp (matrix n) (msel n) v :=
  BitVec.eq_of_getLsbD_eq fun b _ => by
    rcases getLsbD_precondition_or_pmp small large precondition b with clear | clear <;> simp [clear]

/-- R135 (a). -/
theorem codeword_and_payload : (v ||| pmp (matrix n) (msel n) v) &&& (cfgOf n na).payload = v := by
  obtain ⟨-, rows, -⟩ := msel_bounds small large
  refine BitVec.eq_of_getLsbD_eq fun b hb => ?_
  rw [BitVec.getLsbD_and, BitVec.getLsbD_or, getLsbD_payload small large na hb]
  by_cases payload : msel n < b ∧ b ≤ n + msel n
  · rw [pmp_getLsbD_high _ v (by omega) payload.1]
    simp [payload]
  · rw [getLsbD_eq_false_of_precondition small large precondition (b := b) (by omega)]
    simp [payload]

/-- R135 (b). -/
theorem codeword_getLsbD_check {k : Nat} (hk : k < msel n) :
    (v ||| pmp (matrix n) (msel n) v).getLsbD (msel n - k) = parityBit (row (matrix n) k &&& v) := by
  obtain ⟨-, rows, -⟩ := msel_bounds small large
  rw [BitVec.getLsbD_or, getLsbD_eq_false_of_precondition small large precondition (.inl (Nat.sub_le _ _)), Bool.false_or,
    pmp_getLsbD_row _ v (by omega) hk]

/-- R135 (c): the check bits have the parity of the payload. -/
theorem parityBit_codeword : parityBit (v ||| pmp (matrix n) (msel n) v) = false := by
  obtain ⟨-, rows, -⟩ := msel_bounds small large
  rw [codeword_eq_xor small large precondition, parityBit_xor, parityBit_pmp _ v (by omega), Bool.xor_self]

/-- R135 (d): the product of the check bits is the check bits, which are the product of the payload. -/
theorem pmp_codeword : pmp (matrix n) (msel n) (v ||| pmp (matrix n) (msel n) v) = 0#128 := by
  obtain ⟨-, rows, -⟩ := msel_bounds small large
  have check : pmp (matrix n) (msel n) (pmp (matrix n) (msel n) v) = pmp (matrix n) (msel n) v :=
    pmp_of_check small large fun b high => pmp_getLsbD_high _ v (by omega) high
  rw [codeword_eq_xor small large precondition, pmp_xor, check, BitVec.xor_self]

end

end

theorem count_mod_two_of_parityBit {w : Nat} {x : BitVec w} (even : parityBit x = false) : count x % 2 = 0 := by
  rw [← parityBit_toNat, even, Bool.toNat_false]

/-- Settles O33: the payload and the check bits stand apart, and the product is linear and leaves the check bits as they are. -/
theorem codewordProperties : Obligations.CodewordProperties := fun _ _ small large precondition =>
  ⟨codeword_and_payload small large precondition, fun _ => codeword_getLsbD_check small large precondition,
    count_mod_two_of_parityBit (parityBit_codeword small large precondition), pmp_codeword small large precondition⟩

end Sys2Proof.Machine
end

section
/-! The DECODE command (43_decoder R140, R141, R147). -/

namespace Sys2Proof.Machine

/-- The bits that a buffer value of `l` bytes can hold: the low `8 * l` (20_memory R51). -/
def valueBits (l : Nat) : Wide := BitVec.allOnes 128 >>> (128 - 8 * l)

theorem getLsbD_valueBits {l : Nat} (hl : l ≤ 16) (b : Nat) : (valueBits l).getLsbD b = decide (b < 8 * l) := by
  rw [valueBits, BitVec.getLsbD_ushiftRight, BitVec.getLsbD_allOnes, decide_eq_decide]
  omega

theorem and_valueBits_lt {l : Nat} (hl : l ≤ 16) (v : Wide) : (v &&& valueBits l).toNat < 2 ^ (8 * l) :=
  Nat.lt_pow_two_of_testBit _ fun b high => by
    rw [BitVec.testBit_toNat, BitVec.getLsbD_and, getLsbD_valueBits hl, decide_eq_false (Nat.not_lt.mpr high),
      Bool.and_false]

/-- Each byte of the buffer's slice of a value lies in its low `8 * l` bits. -/
theorem extractLsb'_and_valueBits {l i : Nat} (hl : l ≤ 16) (hi : i < l) (v : Wide) :
    (v &&& valueBits l).extractLsb' (8 * (l - 1 - i)) 8 = v.extractLsb' (8 * (l - 1 - i)) 8 :=
  BitVec.eq_of_getLsbD_eq fun b hb => by
    have inside : 8 * (l - 1 - i) + b < 8 * l := by omega
    simp [getLsbD_valueBits hl, inside]

/-- `BufWrite` of a value that need not fit the buffer leaves its low bits there (20_memory R52). -/
theorem State.bufRead_bufWrite_eq_and (s : State) {l : Nat} (hl : l ≤ 16) (v : Wide) :
    (s.bufWrite l v).bufRead l = v &&& valueBits l := by
  have sameBytes : ∀ i, (s.bufWrite l v).byte i = (s.bufWrite l (v &&& valueBits l)).byte i := fun i => by
    rw [s.byte_bufWrite, s.byte_bufWrite]
    split
    · next hi => exact (extractLsb'_and_valueBits hl hi v).symm
    · rfl
  exact (State.valueOf_congr _ fun i _ => sameBytes _).trans (s.bufRead_bufWrite hl (and_valueBits_lt hl v))

theorem State.bufRead_rewriteOperand_eq_and (s : State) {l : Nat} (hl : l ≤ 16) (v : Wide) (r : Result) :
    (s.rewriteOperand l v r).bufRead l = v &&& valueBits l :=
  calc (s.rewriteOperand l v r).bufRead l
    _ = ((s.readOperand l).bufWrite l v).bufRead l := State.valueOf_congr _ fun _ _ => rfl
    _ = v &&& valueBits l := (s.readOperand l).bufRead_bufWrite_eq_and hl v

theorem exec_decode_of_length {s : State} {len : Nat} (valid : s.cfg.valid = true) (wrong : len ≠ s.cfg.len) :
    exec (.decode len) s = .next (s.raise .command .length) := by
  simp [exec, execDecode, valid, wrong]

/-- The RESULT of a consistent value is 0. -/
theorem Result.decoded_consistent : Result.decoded false 0#8 0#8 = Result.zero := rfl

/-! The three outcomes of DECODE, by the syndrome `x` of the value read and its entry of SYN. -/

section
variable {s : State} (valid : s.cfg.valid = true) {x : Wide} (syndrome : s.pmp (s.bufRead s.cfg.len) = x)
include valid syndrome

theorem exec_decode_of_consistent (consistent : x = 0#128) :
    exec (.decode s.cfg.len) s =
      .next (s.rewriteOperand s.cfg.len (s.bufRead s.cfg.len &&& ~~~s.mask) Result.zero) := by
  simp [exec, execDecode, State.decodeValue, State.rewriteOperand, valid, syndrome, consistent, Result.decoded_consistent]

theorem exec_decode_of_corrected (inconsistent : x ≠ 0#128) (found : (lookup s.syn x.toNat).v = true) :
    exec (.decode s.cfg.len) s =
      .next (s.rewriteOperand s.cfg.len
        ((s.bufRead s.cfg.len ^^^ (1#128 <<< (lookup s.syn x.toNat).pos.toNat)) &&& ~~~s.mask)
        (Result.decoded true ((lookup s.syn x.toNat).pos.setWidth 8) (x.setWidth 8))) := by
  simp [exec, execDecode, State.decodeValue, State.rewriteOperand, valid, syndrome, inconsistent, found]

theorem exec_decode_of_double (inconsistent : x ≠ 0#128) (missing : (lookup s.syn x.toNat).v = false) :
    exec (.decode s.cfg.len) s =
      .next ((s.readOperand s.cfg.len).ret (Result.doubleError (x.setWidth 8))) := by
  simp [exec, execDecode, State.decodeValue, valid, syndrome, inconsistent, missing]

end

theorem State.sameBuffer_readOperand_ret (s : State) (l : Nat) (r : Result) : s.SameBuffer ((s.readOperand l).ret r) :=
  fun _ => ⟨rfl, rfl⟩

theorem State.bufRead_and_lt (s : State) {l : Nat} (hl : l ≤ 16) (mask : Wide) :
    (s.bufRead l &&& mask).toNat < 2 ^ (8 * l) :=
  (BitVec.toNat_and (s.bufRead l) mask ▸ Nat.and_le_left).trans_lt (s.bufRead_lt hl)

/-- Settles O34: the faults before the operand is read, then the three outcomes of the syndrome; a consistent value fits
the buffer, and a corrected one keeps its low bits there. -/
theorem decodeCommand : Obligations.DecodeCommand := by
  intro s len
  refine ⟨fun unset => ?_, fun valid wrong => ?_, fun valid length => ?_⟩
  · exact ⟨_, execDecode_of_not_valid len unset, s.commandFaulted_raise .notConfigured, s.sameInstance_raise .command _⟩
  · exact ⟨_, exec_decode_of_length valid wrong, s.commandFaulted_raise .length, s.sameInstance_raise .command _⟩
  · subst length
    have hl : s.cfg.len ≤ 16 := s.cfg.len_bounds.2
    by_cases consistent : s.pmp (s.bufRead s.cfg.len) = 0#128
    · exact ⟨_, exec_decode_of_consistent valid rfl consistent, s.ended_rewriteOperand, s.sameInstance_rewriteOperand,
        s.sameOutside_rewriteOperand, s.sameBufferFrom_rewriteOperand,
        fun _ => ⟨s.operandDefined_rewriteOperand, s.bufRead_rewriteOperand hl (s.bufRead_and_lt hl _), rfl⟩,
        fun inconsistent => absurd consistent inconsistent, fun inconsistent => absurd consistent inconsistent⟩
    cases entry : (lookup s.syn (s.pmp (s.bufRead s.cfg.len)).toNat).v with
    | true =>
      exact ⟨_, exec_decode_of_corrected valid rfl consistent entry, s.ended_rewriteOperand, s.sameInstance_rewriteOperand,
        s.sameOutside_rewriteOperand, s.sameBufferFrom_rewriteOperand, fun zero => absurd zero consistent,
        fun _ _ => ⟨s.operandDefined_rewriteOperand, s.bufRead_rewriteOperand_eq_and hl _ _, rfl⟩,
        fun _ missing => absurd (entry.symm.trans missing) (by decide)⟩
    | false =>
      exact ⟨_, exec_decode_of_double valid rfl consistent entry, s.ended_readOperand_ret _ _,
        (s.sameInstance_readOperand _).trans (State.sameInstance_ret _ _), ⟨rfl, rfl, rfl⟩, fun _ _ => ⟨rfl, rfl⟩,
        fun zero => absurd zero consistent, fun _ found => absurd (entry.symm.trans found) (by decide),
        fun _ _ => ⟨s.sameBuffer_readOperand_ret _ _, rfl⟩⟩

end Sys2Proof.Machine
end

section
/-! What DECODE makes of a codeword with flipped bits (43_decoder R142 to R145): its syndrome is the product of the flips
alone, and SYN tells a single flip, of odd weight, from a double one, of even weight. -/

namespace Sys2Proof.Machine

/-- The configuration stays where its registers stay. -/
theorem State.Configured.of_sameInstance {s t : State} {n : Nat} {na : Bool} (configured : s.Configured n na)
    (same : s.SameInstance t) : t.Configured n na := by
  obtain ⟨cfg, mask, emat, syn⟩ := same
  exact ⟨configured.small, configured.large, cfg.trans configured.cfg, mask.trans configured.mask,
    emat.trans configured.emat, syn ▸ configured.syn⟩

/-- Of a flipped position, the check field's mask leaves what stands above the field. -/
theorem one_shiftLeft_and_not_maskOf {cs h : Nat} (hc : cs < 128) (above : cs ≤ h) :
    1#128 <<< h &&& ~~~maskOf cs = 1#128 <<< h :=
  BitVec.eq_of_getLsbD_eq fun b hb => by
    rw [one_shiftLeft_eq_placeBit, BitVec.getLsbD_and, BitVec.getLsbD_not, getLsbD_maskOf hc]
    by_cases here : b = h
    · simpa [show ¬b < cs by omega] using fun _ => hb
    · rw [getLsbD_placeBit_of_ne _ here, Bool.false_and]

theorem one_shiftLeft_lt {h k : Nat} (below : h < k) : (1#128 <<< h).toNat < 2 ^ k :=
  Nat.lt_pow_two_of_testBit _ fun b high => getLsbD_placeBit_of_ne true (show b ≠ h by omega)

/-- The check field's mask clears position 0. -/
theorem one_and_not_maskOf {cs : Nat} (hc : cs < 128) (pos : 0 < cs) : 1#128 &&& ~~~maskOf cs = 0#128 :=
  BitVec.eq_of_getLsbD_eq fun b hb => by
    rw [BitVec.getLsbD_and, BitVec.getLsbD_not, getLsbD_maskOf hc]
    rcases Nat.eq_zero_or_pos b with rfl | above
    · simp [pos]
    · simp [Nat.ne_of_gt above]

theorem xor_and_distrib_right (x y z : Wide) : (x ^^^ y) &&& z = (x &&& z) ^^^ (y &&& z) :=
  BitVec.eq_of_getLsbD_eq fun b _ => by
    simp only [BitVec.getLsbD_and, BitVec.getLsbD_xor, Bool.and_xor_distrib_right]

/-- Two states whose values of the first `l` bytes and whose bytes from `l` on are the same have the same bytes. -/
theorem State.byte_eq_of_bufRead_eq {s t : State} {l : Nat} (hl : l ≤ 16) (value : t.bufRead l = s.bufRead l)
    (past : s.SameBufferFrom l t) (i : Fin 16) : t.byte i = s.byte i := by
  rcases Nat.lt_or_ge i.val l with hi | hi
  · rw [← t.extractLsb'_bufRead hl hi, ← s.extractLsb'_bufRead hl hi, value]
  · exact (past i hi).1

/-- A high bit, above the payload, stands in no row of the matrix (R115). -/
theorem columnAt_matrix_high {n h : Nat} (small : 1 ≤ n) (large : n ≤ 120) (high : n + msel n < h) (inside : h < 128) :
    ColumnAt (matrix n) (msel n) h 0 := by
  obtain ⟨-, rows, -⟩ := msel_bounds small large
  refine ⟨fun k hk => ?_, Nat.two_pow_pos _, by omega, inside⟩
  rw [row_matrix (by omega), matrixRow_getLsbD small large hk inside, if_neg (by omega), if_neg (by omega),
    Nat.zero_testBit]

/-- A flip where the rows hold nothing has the syndrome 1, of the fold alone. -/
theorem ColumnAt.syndrome_of_empty {emat : Vector Wide 7} {m e : Nat} (empty : ColumnAt emat m e 0) :
    pmp emat m (1#128 <<< e) = 1#128 := by
  refine BitVec.eq_of_toNat_eq (empty.syndromeOf_eq.trans ?_)
  simp

section
variable {s : State} {n : Nat} {na : Bool} (configured : s.Configured n na)
include configured

namespace State.Configured

theorem valid : s.cfg.valid = true := configured.cfg ▸ rfl

/-- The product of a configured block is that of the matrix of its `N`. -/
theorem pmp_eq (v : Wide) : s.pmp v = Machine.pmp (matrix n) (msel n) v := by
  obtain ⟨-, rows, -⟩ := msel_bounds configured.small configured.large
  have m : s.cfg.m.toNat = msel n := by
    rw [configured.cfg]
    exact Nat.mod_eq_of_lt (show msel n < 2 ^ 4 by omega)
  rw [State.pmp, configured.emat, m]

/-- A codeword fits the buffer (R29). -/
theorem codeword_fits : n + msel n < 8 * s.cfg.len := by
  have legal : (cfgOf n na).Legal := Cfg.of_legal na configured.small configured.large
  have fits := legal.fits (cfgOf_valid n na)
  obtain ⟨-, rows, -⟩ := msel_bounds configured.small configured.large
  have check : (cfgOf n na).cs.toNat = msel n + 1 := Nat.mod_eq_of_lt (by omega)
  rw [cfgOf_n_toNat na configured.large, check] at fits
  rw [configured.cfg]
  omega

/-- SYN holds a codeword position at its syndrome (R117). -/
theorem lookup_position {e : Nat} (he : e ≤ n + msel n) :
    lookup s.syn (Machine.pmp (matrix n) (msel n) (1#128 <<< e)).toNat = ⟨true, BitVec.ofNat 7 e⟩ := by
  obtain ⟨syn, built, written, -, -⟩ := syndromeTable_of_legal configured.small configured.large
  cases configured.syn.symm.trans built
  exact written e he

/-- SYN holds nothing at a value of even weight: the syndrome of one flip has odd weight. -/
theorem lookup_even {x : Wide} (even : parityBit x = false) : lookup s.syn x.toNat = SynEntry.zero := by
  obtain ⟨-, rows, -⟩ := msel_bounds configured.small configured.large
  obtain ⟨syn, built, -, others, -⟩ := syndromeTable_of_legal configured.small configured.large
  cases configured.syn.symm.trans built
  refine others _ fun e he same => ?_
  have inside : e < 128 := by have := configured.large; omega
  have odd : parityBit x = true := by
    rw [show x = Machine.pmp (matrix n) (msel n) (1#128 <<< e) from BitVec.eq_of_toNat_eq same, parityBit_pmp _ _ (by omega),
      one_shiftLeft_eq_placeBit, parityBit_placeBit inside]
  exact absurd (even.symm.trans odd) (by decide)

section
variable {v : Wide} (precondition : v &&& ~~~s.cfg.payload = 0#128)
include precondition

/-- The syndrome of a codeword with flipped bits is the product of the flips (R131, R135 (d)). -/
theorem pmp_codeword_xor (flips : Wide) : s.pmp ((v ||| s.pmp v) ^^^ flips) = Machine.pmp (matrix n) (msel n) flips := by
  rw [configured.cfg] at precondition
  rw [configured.pmp_eq, configured.pmp_eq, pmp_xor, pmp_codeword configured.small configured.large precondition,
    BitVec.zero_xor]

/-- MASK takes the check field off a codeword (R140). -/
theorem codeword_and_not_mask : (v ||| s.pmp v) &&& ~~~s.mask = v := by
  rw [configured.cfg] at precondition
  obtain ⟨-, rows, -⟩ := msel_bounds configured.small configured.large
  rw [configured.pmp_eq, configured.mask]
  refine BitVec.eq_of_getLsbD_eq fun b hb => ?_
  rw [BitVec.getLsbD_and, BitVec.getLsbD_or, BitVec.getLsbD_not, getLsbD_maskOf (by omega)]
  rcases Nat.lt_or_ge (msel n) b with high | low
  · rw [pmp_getLsbD_high _ v (by omega) high]
    simp [hb, show ¬b < msel n + 1 by omega]
  · rw [getLsbD_eq_false_of_precondition configured.small configured.large precondition (.inl low)]
    simp [show b < msel n + 1 by omega]

/-- A payload fits the buffer. -/
theorem payload_lt : v.toNat < 2 ^ (8 * s.cfg.len) :=
  Nat.lt_pow_two_of_testBit _ fun b high => by
    have fits := configured.codeword_fits
    rw [configured.cfg] at precondition
    exact getLsbD_eq_false_of_precondition configured.small configured.large precondition (.inr (by omega))

/-! DECODE of a received value: the codeword of `v` with some bits flipped. -/

section
variable {flips : Wide} (received : s.bufRead s.cfg.len = (v ||| s.pmp v) ^^^ flips)
include received

theorem pmp_received : s.pmp (s.bufRead s.cfg.len) = Machine.pmp (matrix n) (msel n) flips := by
  rw [received, configured.pmp_codeword_xor precondition]

/-- Flips with no syndrome pass, but for those in the check field, which is cleared. -/
theorem exec_decode_of_unseen (unseen : Machine.pmp (matrix n) (msel n) flips = 0#128) :
    exec (.decode s.cfg.len) s =
      .next (s.rewriteOperand s.cfg.len (v ^^^ (flips &&& ~~~s.mask)) Result.zero) := by
  rw [exec_decode_of_consistent configured.valid (configured.pmp_received precondition received) unseen, received,
    xor_and_distrib_right, configured.codeword_and_not_mask precondition]

/-- Flips with the syndrome of position `e` are answered by a flip of `e`. -/
theorem exec_decode_of_syndrome {e : Nat} (he : e ≤ n + msel n)
    (seen : Machine.pmp (matrix n) (msel n) flips = Machine.pmp (matrix n) (msel n) (1#128 <<< e)) :
    exec (.decode s.cfg.len) s =
      .next (s.rewriteOperand s.cfg.len (v ^^^ ((flips ^^^ 1#128 <<< e) &&& ~~~s.mask))
        (Result.decoded true (BitVec.ofNat 8 e) (BitVec.ofNat 8 (syndromeOf s.emat (msel n) e)))) := by
  have large := configured.large
  obtain ⟨-, rows, -⟩ := msel_bounds configured.small large
  have syndrome := (configured.pmp_received precondition received).trans seen
  have inconsistent : Machine.pmp (matrix n) (msel n) (1#128 <<< e) ≠ 0#128 := fun zero =>
    absurd (congrArg BitVec.toNat zero) (syndromeOf_pos (matrix n) (by omega) (by omega)).ne'
  have entry := configured.lookup_position he
  have position : (BitVec.ofNat 7 e).toNat = e := Nat.mod_eq_of_lt (show e < 2 ^ 7 by omega)
  have wide : (BitVec.ofNat 7 e).setWidth 8 = BitVec.ofNat 8 e := by rw [← BitVec.ofNat_toNat, position]
  rw [exec_decode_of_corrected configured.valid syndrome inconsistent (by rw [entry]), entry, position, wide, received,
    BitVec.xor_assoc, xor_and_distrib_right, configured.codeword_and_not_mask precondition, ← BitVec.ofNat_toNat,
    ← syndromeOf, ← configured.emat]

/-- Flips of an even number of bits with a syndrome are a double error. -/
theorem exec_decode_of_even (even : parityBit flips = false)
    (inconsistent : Machine.pmp (matrix n) (msel n) flips ≠ 0#128) :
    exec (.decode s.cfg.len) s =
      .next ((s.readOperand s.cfg.len).ret
        (Result.doubleError ((Machine.pmp (matrix n) (msel n) flips).setWidth 8))) := by
  obtain ⟨-, rows, -⟩ := msel_bounds configured.small configured.large
  have weight : parityBit (Machine.pmp (matrix n) (msel n) flips) = false := (parityBit_pmp _ flips (by omega)).trans even
  have missing := congrArg SynEntry.v (configured.lookup_even weight)
  exact exec_decode_of_double configured.valid (configured.pmp_received precondition received) inconsistent missing

end

end

/-- Two different positions have different syndromes, so together they have one (R121). -/
theorem pmp_two_positions {a b : Nat} (ha : a ≤ n + msel n) (hb : b ≤ n + msel n) (apart : a ≠ b) :
    Machine.pmp (matrix n) (msel n) (1#128 <<< a ^^^ 1#128 <<< b) ≠ 0#128 := by
  rw [pmp_xor, ne_eq, BitVec.xor_eq_zero_iff]
  exact fun same => apart (syndromeOf_injective configured.small configured.large ha hb (congrArg BitVec.toNat same))

end State.Configured

end

theorem parityBit_two_flips {a b : Nat} (ha : a < 128) (hb : b < 128) :
    parityBit (1#128 <<< a ^^^ 1#128 <<< b) = false := by
  rw [parityBit_xor, one_shiftLeft_eq_placeBit, one_shiftLeft_eq_placeBit, parityBit_placeBit ha, parityBit_placeBit hb,
    Bool.xor_self]

/-- Settles O35: ENCODE leaves the codeword, whose syndrome is 0, and DECODE clears its check field. -/
theorem encodeDecodeRoundTrip : Obligations.EncodeDecodeRoundTrip := by
  intro s n na configured precondition
  have hl : s.cfg.len ≤ 16 := s.cfg.len_bounds.2
  obtain ⟨t, encoded, codeword, past, same, fault⟩ : ∃ t, exec (.encode s.cfg.len) s = .next t ∧
      t.bufRead s.cfg.len = s.bufRead s.cfg.len ||| s.pmp (s.bufRead s.cfg.len) ∧ s.SameBufferFrom s.cfg.len t ∧
      s.SameInstance t ∧ t.status.fault = s.status.fault :=
    ⟨_, exec_encode_of_accepted configured.valid (.inr precondition), s.bufRead_rewriteOperand hl s.encoded_lt,
      s.sameBufferFrom_rewriteOperand, s.sameInstance_rewriteOperand, rfl⟩
  have configured' : t.Configured n na := configured.of_sameInstance same
  have cfg : t.cfg = s.cfg := configured'.cfg.trans configured.cfg.symm
  rw [configured.pmp_eq, ← configured'.pmp_eq, ← BitVec.xor_zero (x := _ ||| _)] at codeword
  rw [← cfg] at precondition codeword hl past ⊢
  have decoded := configured'.exec_decode_of_unseen precondition codeword (pmp_zero _ _)
  rw [BitVec.zero_and, BitVec.xor_zero] at decoded
  have value := t.bufRead_rewriteOperand (r := Result.zero) hl (s.bufRead_lt hl)
  exact ⟨t, _, cfg ▸ encoded, decoded, value,
    State.byte_eq_of_bufRead_eq hl value (past.trans t.sameBufferFrom_rewriteOperand), rfl, fault⟩

/-- Settles O36: the flip's syndrome is that of its position, and the flip that answers it cancels it. -/
theorem singleErrorCorrection : Obligations.SingleErrorCorrection := by
  intro s n na v e configured precondition he received
  have decoded := configured.exec_decode_of_syndrome precondition received he rfl
  rw [BitVec.xor_self, BitVec.zero_and, BitVec.xor_zero] at decoded
  exact ⟨_, decoded, s.bufRead_rewriteOperand s.cfg.len_bounds.2 (configured.payload_lt precondition), rfl, rfl⟩

/-- Settles O37: two flips have an even weight, and a syndrome. -/
theorem doubleErrorDetection : Obligations.DoubleErrorDetection := by
  intro s n na v a b configured precondition ha hb apart received
  have large := configured.large
  obtain ⟨-, rows, -⟩ := msel_bounds configured.small large
  rw [BitVec.xor_assoc] at received
  have decoded := configured.exec_decode_of_even precondition received (parityBit_two_flips (by omega) (by omega))
    (configured.pmp_two_positions ha hb apart)
  exact ⟨_, decoded, rfl, rfl, s.sameBuffer_readOperand_ret _ _, rfl⟩

/-- Settles O38: a high bit stands in no row, as position 0 does, so it has the syndrome of position 0. -/
theorem highBitErrors : Obligations.HighBitErrors := by
  intro s n na v h configured precondition high inside
  have small := configured.small
  have large := configured.large
  obtain ⟨-, rows, -⟩ := msel_bounds small large
  obtain ⟨-, hl⟩ := s.cfg.len_bounds
  have overall : pmp (matrix n) (msel n) (1#128 <<< 0) = 1#128 :=
    (columnAt_matrix small large (Nat.zero_le _)).syndrome_of_empty
  have alone : pmp (matrix n) (msel n) (1#128 <<< h) = 1#128 :=
    (columnAt_matrix_high small large (by omega) (by omega)).syndrome_of_empty
  have stays : (1#128 <<< h ^^^ 1#128 <<< 0) &&& ~~~s.mask = 1#128 <<< h := by
    rw [xor_and_distrib_right, configured.mask, one_shiftLeft_and_not_maskOf (by omega) (by omega), BitVec.shiftLeft_zero,
      one_and_not_maskOf (by omega) (by omega), BitVec.xor_zero]
  have fits : (v ^^^ 1#128 <<< h).toNat < 2 ^ (8 * s.cfg.len) := by
    rw [BitVec.toNat_xor]
    exact Nat.xor_lt_two_pow (configured.payload_lt precondition) (one_shiftLeft_lt inside)
  refine ⟨fun received => ?_, fun received => ?_, fun e pos he received => ?_⟩
  · have decoded := configured.exec_decode_of_syndrome precondition received (Nat.zero_le _) (alone.trans overall.symm)
    rw [stays, syndromeOf, configured.emat, overall] at decoded
    exact ⟨_, decoded, s.bufRead_rewriteOperand hl fits, rfl⟩
  · have flipped : s.bufRead s.cfg.len = (v ||| s.pmp v) ^^^ (1#128 <<< h ^^^ 1#128 <<< 0) := by
      rw [received, BitVec.xor_assoc, BitVec.shiftLeft_zero]
    have unseen : pmp (matrix n) (msel n) (1#128 <<< h ^^^ 1#128 <<< 0) = 0#128 := by
      rw [pmp_xor, alone, overall, BitVec.xor_self]
    have decoded := configured.exec_decode_of_unseen precondition flipped unseen
    rw [stays] at decoded
    exact ⟨_, decoded, s.bufRead_rewriteOperand hl fits, rfl⟩
  · rw [BitVec.xor_assoc] at received
    have asZero : pmp (matrix n) (msel n) (1#128 <<< h ^^^ 1#128 <<< e) =
        pmp (matrix n) (msel n) (1#128 <<< 0 ^^^ 1#128 <<< e) := by
      rw [pmp_xor, pmp_xor, alone, overall]
    have decoded := configured.exec_decode_of_even precondition received (parityBit_two_flips (by omega) (by omega))
      (asZero ▸ configured.pmp_two_positions (Nat.zero_le _) he (Nat.ne_of_lt pos))
    exact ⟨_, decoded, rfl, s.sameBuffer_readOperand_ret _ _⟩

end Sys2Proof.Machine
end

section
/-! The fields of a register word (10_state R26 to R28): each stands at its own place and is 0 at every other. -/

namespace Sys2Proof.Machine

section
variable {w n k : Nat} (v : BitVec w) (fits : w + k ≤ n)
include fits

theorem getLsbD_place (i : Nat) : (place n v k).getLsbD i = (decide (k ≤ i) && v.getLsbD (i - k)) := by
  rw [place, BitVec.getLsbD_shiftLeft, BitVec.getLsbD_setWidth]
  by_cases inside : i < n
  · simp [inside, show i - k < n by omega, ← decide_not]
  · simp [inside, BitVec.getLsbD_of_ge v (i - k) (by omega)]

theorem getLsbD_place_apart {i : Nat} (apart : i < k ∨ w + k ≤ i) : (place n v k).getLsbD i = false := by
  rw [getLsbD_place v fits]
  rcases apart with below | above
  · simp [below]
  · simp [BitVec.getLsbD_of_ge v (i - k) (by omega)]

theorem extractLsb'_place_same : (place n v k).extractLsb' k w = v :=
  BitVec.eq_of_getLsbD_eq fun i hi => by simp [getLsbD_place v fits, hi]

theorem extractLsb'_place_apart {start len : Nat} (apart : start + len ≤ k ∨ w + k ≤ start) :
    (place n v k).extractLsb' start len = 0#len :=
  BitVec.eq_of_getLsbD_eq fun i hi => by
    simp [getLsbD_place_apart v fits (show start + i < k ∨ w + k ≤ start + i by omega)]

/-- A mask that leaves the field's place out clears the field. -/
theorem place_and_eq_zero {mask : BitVec n} (leftOut : mask.extractLsb' k w = 0#w) : place n v k &&& mask = 0#n := by
  have cleared : mask.extractLsb' k w = (0#n).extractLsb' k w := by simpa using leftOut
  refine BitVec.eq_of_getLsbD_eq fun i _ => ?_
  rw [BitVec.getLsbD_and]
  by_cases here : k ≤ i ∧ i < k + w
  · obtain ⟨above, below⟩ := here
    rw [getLsbD_eq_of_extractLsb'_eq cleared above below, BitVec.getLsbD_zero, Bool.and_false]
  · rw [getLsbD_place_apart v fits (by omega), Bool.false_and, BitVec.getLsbD_zero]

end

theorem getLsbD_place_ofBool {n k : Nat} (inside : k < n) (b : Bool) : (place n (BitVec.ofBool b) k).getLsbD k = b :=
  (getLsbD_placeBit inside b k).trans (by simp)

/-- The layout of STATUS (R26); the mask holds its reserved bits. -/
theorem Status.word_fields (x : Status) : x.word.getLsbD 0 = x.busy ∧ x.word.getLsbD 1 = x.fault ∧
    x.word.extractLsb' 4 4 = x.cause ∧ x.word &&& 0xFFFFFF0C#32 = 0#32 := by
  simp (disch := decide) [Status.word, placeBit, getLsbD_place_ofBool, getLsbD_place_apart, BitVec.extractLsb'_or,
    extractLsb'_place_same, extractLsb'_place_apart, BitVec.and_or_distrib_right, place_and_eq_zero,
    -BitVec.getLsbD_eq_getElem]

/-- The layout of RESULT (R27). -/
theorem Result.word_fields (x : Result) : x.word.extractLsb' 0 4 = x.err ∧ x.word.getLsbD 4 = x.corr ∧
    x.word.getLsbD 5 = x.par ∧ x.word.extractLsb' 6 2 = 0#2 ∧ x.word.extractLsb' 8 8 = x.pos ∧
    x.word.extractLsb' 16 8 = x.synd ∧ x.word.extractLsb' 24 8 = x.count := by
  simp (disch := decide) [Result.word, placeBit, getLsbD_place_ofBool, getLsbD_place_apart, BitVec.extractLsb'_or,
    extractLsb'_place_same, extractLsb'_place_apart, -BitVec.getLsbD_eq_getElem]

/-- The layout of CFG (R28); the mask holds its reserved bits. -/
theorem Cfg.word_fields (x : Cfg) : x.word.getLsbD 0 = x.valid ∧ x.word.getLsbD 1 = x.wm ∧
    x.word.getLsbD 2 = x.noassert ∧ x.word.extractLsb' 8 7 = x.n ∧ x.word.extractLsb' 16 4 = x.cs ∧
    x.word.extractLsb' 20 4 = x.m ∧ x.word &&& 0xFF0080F8#32 = 0#32 := by
  simp (disch := decide) [Cfg.word, placeBit, getLsbD_place_ofBool, getLsbD_place_apart, BitVec.extractLsb'_or,
    extractLsb'_place_same, extractLsb'_place_apart, BitVec.and_or_distrib_right, place_and_eq_zero,
    -BitVec.getLsbD_eq_getElem]

end Sys2Proof.Machine
end

section
/-! Decoding a host transaction (30_encoding R76): every row fixes WE, the rows with WE = 1 are WRBUF and WRCMD, and a
transaction whose WE and ADDR, bits 37:32, hit no row is illegal (44_host_interface R159). -/

namespace Sys2Proof

/-- WRBUF or WRCMD. -/
def Instr.IsWrite (i : Instr) : Prop := (∃ k v, i = .wrbuf k v) ∨ ∃ v, i = .wrcmd v

/-- RDSTATUS, RDRESULT, RDCFG or RDBUF. -/
def Instr.IsRead (i : Instr) : Prop := i = .rdstatus ∨ i = .rdresult ∨ i = .rdcfg ∨ ∃ k, i = .rdbuf k

/-- A row that is hit shows its WE in the transaction: every mask includes bit 37. -/
theorem fieldWE_of_hits {r : Row 38} (row : r ∈ transactionRows) {t : BitVec 38} (hit : r.hits t = true) :
    fieldWE t = r.pattern.getLsbD 37 := by
  have included : ∀ r ∈ transactionRows, r.mask.getLsbD 37 = true := by decide
  rw [← eq_of_beq hit, BitVec.getLsbD_and, included r row, Bool.and_true, fieldWE]

/-- What a transaction decodes to has the transaction's direction. -/
theorem decodeTransaction_direction {t : BitVec 38} {i : Instr} (decoded : decodeTransaction t = .ok i) :
    (fieldWE t = true ∧ i.IsWrite) ∨ (fieldWE t = false ∧ i.IsRead) := by
  unfold decodeTransaction at decoded
  split_ifs at decoded with wrbuf rdbuf wrcmd rdstatus rdresult rdcfg <;> cases decoded
  · exact .inl ⟨fieldWE_of_hits (by decide) wrbuf, .inl ⟨_, _, rfl⟩⟩
  · exact .inr ⟨fieldWE_of_hits (by decide) rdbuf, .inr (.inr (.inr ⟨_, rfl⟩))⟩
  · exact .inl ⟨fieldWE_of_hits (by decide) wrcmd, .inr ⟨_, rfl⟩⟩
  · exact .inr ⟨fieldWE_of_hits (by decide) rdstatus, .inl rfl⟩
  · exact .inr ⟨fieldWE_of_hits (by decide) rdresult, .inr (.inl rfl)⟩
  · exact .inr ⟨fieldWE_of_hits (by decide) rdcfg, .inr (.inr (.inl rfl))⟩

theorem decodeTransaction_of_misses {t : BitVec 38} (misses : ∀ r ∈ transactionRows, r.hits t = false) :
    decodeTransaction t = .error (.illegalAccess (!fieldWE t)) := by
  simp only [transactionRows, List.forall_mem_cons] at misses
  simp [decodeTransaction, misses]

/-- A row is hit where it is hit in bits 37:32: it takes WDATA as it comes. -/
theorem head_hits_of_hits {r : Row 38} {t : BitVec 38} (hit : r.hits t = true) :
    (Row.mk (r.mask.extractLsb' 32 6) (r.pattern.extractLsb' 32 6)).hits (t.extractLsb' 32 6) = true := by
  rw [Row.hits, beq_iff_eq, ← BitVec.extractLsb'_and, eq_of_beq hit]

/-- The values of bits 37:32 that no row takes (44_host_interface R159), searched over all 64. -/
theorem head_misses (head : BitVec 6)
    (illegal : (head.getLsbD 5 = true ∧ 17 ≤ (head.extractLsb' 0 5).toNat) ∨
      (head.getLsbD 5 = false ∧ ((head.extractLsb' 0 5).toNat = 16 ∨ 20 ≤ (head.extractLsb' 0 5).toNat))) :
    ∀ r ∈ transactionRows, (Row.mk (r.mask.extractLsb' 32 6) (r.pattern.extractLsb' 32 6)).hits head = false := by
  revert head
  decide

/-- The illegal transactions of 44_host_interface R159. -/
theorem decodeTransaction_of_illegal {t : BitVec 38}
    (illegal : (fieldWE t = true ∧ 17 ≤ (fieldAddr t).toNat) ∨
      (fieldWE t = false ∧ ((fieldAddr t).toNat = 16 ∨ 20 ≤ (fieldAddr t).toNat))) :
    decodeTransaction t = .error (.illegalAccess (!fieldWE t)) := by
  have we : (t.extractLsb' 32 6).getLsbD 5 = fieldWE t := by simp [fieldWE]
  have addr : (t.extractLsb' 32 6).extractLsb' 0 5 = fieldAddr t :=
    BitVec.eq_of_getLsbD_eq fun i inside => by simp [fieldAddr, inside, show i < 6 by omega]
  refine decodeTransaction_of_misses fun r row => Bool.eq_false_iff.mpr fun hit => ?_
  have missed := head_misses (t.extractLsb' 32 6) (by rwa [we, addr]) r row
  exact Bool.false_ne_true (missed.symm.trans (head_hits_of_hits hit))

end Sys2Proof
end

section
/-! What the host's transactions leave and answer (44_host_interface R151 to R160): a read answers and writes nothing of the
block; a write takes effect in an idle block, faults a busy one and is ignored by a faulted one. -/

namespace Sys2Proof.Machine

/-! Reads and faults leave the block as it is, or write the latch alone. -/

theorem State.SameBuffer.trans {s t u : State} (first : s.SameBuffer t) (second : t.SameBuffer u) : s.SameBuffer u :=
  fun i => ⟨(second i).1.trans (first i).1, (second i).2.trans (first i).2⟩

theorem State.SameBlock.trans {s t u : State} (first : s.SameBlock t) (second : t.SameBlock u) : s.SameBlock u := by
  obtain ⟨buffer, codec, status, result, pend⟩ := first
  obtain ⟨buffer', codec', status', result', pend'⟩ := second
  exact ⟨buffer.trans buffer', codec.trans codec', status'.trans status, result'.trans result, pend'.trans pend⟩

section
variable (s : State)

theorem State.sameBlock_respond (v : Word) : s.SameBlock (s.respond v) :=
  ⟨fun _ => ⟨rfl, rfl⟩, s.sameInstance_respond v, rfl, rfl, rfl⟩

theorem State.sameBlock_respondUndefined : s.SameBlock s.respondUndefined :=
  ⟨fun _ => ⟨rfl, rfl⟩, s.sameInstance_respondUndefined, rfl, rfl, rfl⟩

theorem State.sameBlock_respondIdle (v : Word) : s.SameBlock (s.respondIdle v) := by
  rcases s.respondIdle_cases v with ⟨-, busy⟩ | ⟨-, idle⟩
  · rw [busy]; exact s.sameBlock_respondUndefined
  · rw [idle]; exact s.sameBlock_respond v

theorem State.sameBlock_readByte (i : Fin 16) : s.SameBlock (s.readByte i) :=
  ⟨fun _ => ⟨rfl, rfl⟩, ⟨rfl, rfl, rfl, rfl⟩, rfl, rfl, rfl⟩

theorem State.hostFaulted_raise (c : Cause) : s.HostFaulted (s.raise .host c) c :=
  ⟨s.faultLatched_raise .host c, rfl, fun _ => ⟨rfl, rfl⟩, s.sameInstance_raise .host c, rfl, rfl, rfl⟩

end

/-! The writes, by the state of the block. -/

section
variable {s : State}

theorem State.hostWrite_of_idle (effect : State) (working : s.status.fault = false) (idle : s.status.busy = false) :
    s.hostWrite effect = effect := by
  simp [State.hostWrite, working, idle]

theorem State.hostWrite_of_faulted (effect : State) (faulted : s.status.fault = true) : s.hostWrite effect = s := by
  simp [State.hostWrite, faulted]

theorem State.hostWrite_of_busy (effect : State) (working : s.status.fault = false) (busy : s.status.busy = true) :
    s.hostWrite effect = s.raise .host .hazard := by
  simp [State.hostWrite, working, busy]

/-- Each write performs its effect under the common checks. -/
theorem exec_write {i : Instr} (write : i.IsWrite) (s : State) : ∃ effect, exec i s = .next (s.hostWrite effect) := by
  rcases write with ⟨k, v, rfl⟩ | ⟨v, rfl⟩ <;> exact ⟨_, rfl⟩

theorem exec_write_of_faulted {i : Instr} (write : i.IsWrite) (faulted : s.status.fault = true) : exec i s = .next s := by
  obtain ⟨effect, runs⟩ := exec_write write s
  rw [runs, State.hostWrite_of_faulted effect faulted]

theorem exec_write_of_busy {i : Instr} (write : i.IsWrite) (working : s.status.fault = false)
    (busy : s.status.busy = true) : exec i s = .next (s.raise .host .hazard) := by
  obtain ⟨effect, runs⟩ := exec_write write s
  rw [runs, State.hostWrite_of_busy effect working busy]

theorem exec_wrbuf_of_idle (i : Fin 16) (w : Word) (working : s.status.fault = false) (idle : s.status.busy = false) :
    exec (.wrbuf i w) s = .next (s.setByte i (w.setWidth 8)) :=
  congrArg Host.Outcome.next (State.hostWrite_of_idle _ working idle)

theorem exec_wrcmd_of_idle (w : Word) (working : s.status.fault = false) (idle : s.status.busy = false) :
    exec (.wrcmd w) s = .next (s.issue w) :=
  congrArg Host.Outcome.next (State.hostWrite_of_idle _ working idle)

/-! The reads, by the state of the block. -/

theorem State.respondIdle_of_idle (v : Word) (idle : s.status.busy = false) : s.respondIdle v = s.respond v := by
  simp [State.respondIdle, idle]

theorem State.respondIdle_of_busy (v : Word) (busy : s.status.busy = true) : s.respondIdle v = s.respondUndefined := by
  simp [State.respondIdle, busy]

theorem exec_rdbuf_of_idle (i : Fin 16) (idle : s.status.busy = false) :
    exec (.rdbuf i) s = .next ((s.readByte i).respond ((s.byte i).setWidth 32)) := by
  simp [exec, execRdbuf, idle]

theorem exec_rdbuf_of_busy (i : Fin 16) (busy : s.status.busy = true) : exec (.rdbuf i) s = .next s.respondUndefined := by
  simp [exec, execRdbuf, busy]

theorem exec_rdresult_of_idle (idle : s.status.busy = false) : exec .rdresult s = .next (s.respond s.result.word) :=
  congrArg Host.Outcome.next (State.respondIdle_of_idle _ idle)

theorem exec_rdcfg_of_idle (idle : s.status.busy = false) : exec .rdcfg s = .next (s.respond s.cfg.word) :=
  congrArg Host.Outcome.next (State.respondIdle_of_idle _ idle)

/-- The three reads that want an idle block return a free value of a busy one (R158). -/
theorem exec_read_of_busy {i : Instr} (read : i = .rdresult ∨ i = .rdcfg ∨ ∃ k, i = .rdbuf k)
    (busy : s.status.busy = true) : exec i s = .next s.respondUndefined := by
  rcases read with rfl | rfl | ⟨k, rfl⟩
  · exact congrArg Host.Outcome.next (State.respondIdle_of_busy _ busy)
  · exact congrArg Host.Outcome.next (State.respondIdle_of_busy _ busy)
  · exact exec_rdbuf_of_busy k busy

/-- A read of the host writes nothing of the block. -/
theorem exec_read_sameBlock {i : Instr} (read : i.IsRead) {t : State} (runs : exec i s = .next t) : s.SameBlock t := by
  rcases read with rfl | rfl | rfl | ⟨k, rfl⟩
  · cases runs; exact s.sameBlock_respond _
  · cases runs; exact s.sameBlock_respondIdle _
  · cases runs; exact s.sameBlock_respondIdle _
  · rcases execRdbuf_cases k s with ⟨-, h⟩ | ⟨-, h⟩ <;> cases h.symm.trans runs
    · exact s.sameBlock_respondUndefined
    · exact (s.sameBlock_readByte k).trans (State.sameBlock_respond _ _)

end

/-- Settles O39: the effect of WRBUF is one `setByte`, performed in an idle block. -/
theorem wrbufTransaction : Obligations.WrbufTransaction := by
  intro s i w
  refine ⟨fun working idle => ?_, fun faulted => ?_, fun working busy => ?_⟩
  · refine ⟨_, exec_wrbuf_of_idle i w working idle, ?_, s.byteDef_setByte_same i _, fun j other => ?_,
      ⟨rfl, rfl, rfl, rfl⟩, ⟨rfl, rfl, rfl⟩, rfl, rfl, rfl, rfl, rfl⟩
    · rw [s.byte_setByte_same, BitVec.setWidth_eq_extractLsb' (by decide)]
    · exact ⟨s.byte_setByte_of_ne _ other, s.byteDef_setByte_of_ne _ other⟩
  · exact exec_write_of_faulted (.inl ⟨i, w, rfl⟩) faulted
  · exact ⟨_, exec_write_of_busy (.inl ⟨i, w, rfl⟩) working busy, s.hostFaulted_raise .hazard⟩

/-- Settles O40: the answer is the byte as it reads, and the byte of a clear flag is the free value of the last reset. -/
theorem rdbufTransaction : Obligations.RdbufTransaction := by
  intro s i
  refine ⟨fun idle => ?_, fun idle undefined => ?_, fun busy => ?_⟩
  · exact ⟨_, exec_rdbuf_of_idle i idle, rfl, exec_read_sameBlock (.inr (.inr (.inr ⟨i, rfl⟩))) (exec_rdbuf_of_idle i idle),
      ⟨rfl, rfl, rfl⟩, rfl⟩
  · refine ⟨_, exec_rdbuf_of_idle i idle, ?_⟩
    rw [State.respond_rspRdata, s.byte_of_undefined undefined]
  · exact ⟨_, exec_rdbuf_of_busy i busy, rfl, s.sameBlock_respondUndefined, rfl, rfl, rfl⟩

/-- Settles O41: the effect of WRCMD is `issue`, performed in an idle block, whatever the word. -/
theorem wrcmdTransaction : Obligations.WrcmdTransaction := by
  intro s w
  refine ⟨fun working idle => ?_, fun faulted => ?_, fun working busy => ?_⟩
  · exact ⟨_, exec_wrcmd_of_idle w working idle, rfl, rfl, fun _ => ⟨rfl, rfl⟩, ⟨rfl, rfl, rfl, rfl⟩, ⟨rfl, rfl, rfl⟩,
      rfl, rfl, rfl⟩
  · exact exec_write_of_faulted (.inr ⟨w, rfl⟩) faulted
  · exact ⟨_, exec_write_of_busy (.inr ⟨w, rfl⟩) working busy, s.hostFaulted_raise .hazard⟩

/-- Settles O42: the answer is STATUS's word in every state. -/
theorem rdstatusTransaction : Obligations.RdstatusTransaction := by
  intro s
  obtain ⟨busy, fault, cause, reserved⟩ := s.status.word_fields
  exact ⟨_, _, rfl, rfl, busy, fault, cause, reserved, s.sameBlock_respond _, ⟨rfl, rfl, rfl⟩, rfl⟩

/-- Settles O43: an idle block answers RESULT's word, a busy one a free value. -/
theorem rdresultTransaction : Obligations.RdresultTransaction := by
  intro s
  refine ⟨s.respondIdle s.result.word, rfl, s.sameBlock_respondIdle _, exec_outside (i := .rdresult) rfl, fun idle => ?_,
    fun busy => ?_⟩
  · rw [State.respondIdle_of_idle _ idle]
    exact ⟨rfl, _, rfl, s.result.word_fields⟩
  · rw [State.respondIdle_of_busy _ busy]
    rfl

/-- Settles O44: an idle block answers CFG's word, a busy one a free value. -/
theorem rdcfgTransaction : Obligations.RdcfgTransaction := by
  intro s
  refine ⟨s.respondIdle s.cfg.word, rfl, s.sameBlock_respondIdle _, exec_outside (i := .rdcfg) rfl, fun idle => ?_,
    fun busy => ?_⟩
  · rw [State.respondIdle_of_idle _ idle]
    exact ⟨rfl, _, rfl, s.cfg.word_fields⟩
  · rw [State.respondIdle_of_busy _ busy]
    rfl

end Sys2Proof.Machine
end

section
/-! Illegal transactions, and the block after a fault (44_host_interface R158 to R160). -/

namespace Sys2Proof.Machine

section
variable {s : State}

theorem transact_of_illegal {w : BitVec 38} {read : Bool} (running : s.rst = false)
    (illegal : decodeTransaction w = .error (.illegalAccess read)) : transact w s = .next (s.illegalAccess read) := by
  simp [transact, running, illegal]

theorem State.illegalAccess_rspRdata (s : State) (read : Bool) :
    (s.illegalAccess read).rspRdata = if read then some 0#32 else s.rspRdata := by
  cases faulted : s.status.fault <;> cases read <;> simp [State.illegalAccess, faulted]

/-- An illegal transaction faults a block that has not faulted; the 0 a read answers changes nothing of the fault. -/
theorem State.hostFaulted_illegalAccess (working : s.status.fault = false) (read : Bool) :
    s.HostFaulted (s.illegalAccess read) .illegalAccess := by
  simp only [State.illegalAccess, working, Bool.false_eq_true, if_false]
  cases read
  · exact s.hostFaulted_raise .illegalAccess
  · exact s.hostFaulted_raise .illegalAccess

/-- After a fault an illegal transaction is answered as any transaction is while `rst = 1`. -/
theorem State.illegalAccess_of_faulted (faulted : s.status.fault = true) (read : Bool) :
    s.illegalAccess read = s.ignoredInReset read := by
  simp [State.illegalAccess, State.ignoredInReset, faulted]

theorem State.sameBlock_ignoredInReset (s : State) (read : Bool) : s.SameBlock (s.ignoredInReset read) := by
  cases read
  · exact .refl s
  · exact s.sameBlock_respond 0#32

theorem State.sameOutside_ignoredInReset (s : State) (read : Bool) : s.SameOutside (s.ignoredInReset read) := by
  cases read <;> exact ⟨rfl, rfl, rfl⟩

/-- After a fault no transaction changes the block. -/
theorem transact_sameBlock_of_faulted {w : BitVec 38} {t : State} (faulted : s.status.fault = true)
    (runs : transact w s = .next t) : s.SameBlock t := by
  rcases transact_cases w s with ⟨-, h⟩ | ⟨-, i, decoded, h⟩ | ⟨-, -, h⟩
  · cases h.symm.trans runs
    exact s.sameBlock_ignoredInReset _
  · rcases decodeTransaction_direction decoded with ⟨-, write⟩ | ⟨-, read⟩
    · cases (h.trans (exec_write_of_faulted write faulted)).symm.trans runs
      exact .refl s
    · exact exec_read_sameBlock read (h.symm.trans runs)
  · rw [State.illegalAccess_of_faulted faulted] at h
    cases h.symm.trans runs
    exact s.sameBlock_ignoredInReset _

theorem State.sameBlock_afterPoll (s : State) : s.SameBlock s.afterPoll := by
  unfold State.afterPoll
  split
  · exact ⟨fun _ => ⟨rfl, rfl⟩, ⟨rfl, rfl, rfl, rfl⟩, rfl, rfl, rfl⟩
  · exact .refl s

theorem poll_sameBlock_of_faulted {t : State} (faulted : s.status.fault = true) (runs : poll s = .next t) :
    s.SameBlock t := by
  cases h : transact rdstatusWord s with
  | next u =>
    simp only [poll, h] at runs
    cases runs
    exact (transact_sameBlock_of_faulted faulted h).trans u.sameBlock_afterPoll
  | fault f => cases f
  | refused r => simp [poll, h] at runs

/-- After a fault the host changes the block by asserting `rst` alone. -/
theorem hostOp_sameBlock_of_faulted {op : HostOp} {t : State} (faulted : s.status.fault = true)
    (other : op ≠ .assertReset) (runs : hostOp op s = .next t) : s.SameBlock t := by
  cases op with
  | tx w => exact transact_sameBlock_of_faulted faulted runs
  | wait => exact poll_sameBlock_of_faulted faulted runs
  | assertReset => exact absurd rfl other
  | releaseReset => cases runs; exact ⟨fun _ => ⟨rfl, rfl⟩, ⟨rfl, rfl, rfl, rfl⟩, rfl, rfl, rfl⟩

/-! The agents' moves in a faulted block. -/

theorem codecMove_of_idle (idle : s.status.busy = false) : codecMove s = .next s := by
  simp [codecMove, idle]

theorem State.sameBlock_withHost (s : State) (ops : List HostOp) : s.SameBlock { s with host := ops } :=
  ⟨fun _ => ⟨rfl, rfl⟩, ⟨rfl, rfl, rfl, rfl⟩, rfl, rfl, rfl⟩

theorem State.sameBlock_begin (running : s.rst = false) : s.SameBlock s.begin := by
  rw [s.begin_of_not_rst running]
  exact ⟨fun _ => ⟨rfl, rfl⟩, ⟨rfl, rfl, rfl, rfl⟩, rfl, rfl, rfl⟩

/-- A step of a faulted block is a reset or leaves the block as it is (60_exceptions R177). -/
theorem step_sameBlock_of_faulted {t : State} (faulted : s.status.fault = true) (idle : s.status.busy = false)
    (running : s.rst = false) (stepped : step s = .next t) : (∃ rest, s.HostNext .assertReset rest) ∨ s.SameBlock t := by
  have begun : s.SameBlock s.begin := State.sameBlock_begin running
  have ⟨_, _, status, _, _⟩ := begun
  rcases step_cases s with ⟨-, h⟩ | ⟨-, -, h⟩ | ⟨mover, op, rest, queued, h⟩ <;> rw [h] at stepped
  · cases (codecMove_of_idle (status ▸ idle)).symm.trans stepped
    exact .inr begun
  · cases stepped
    exact .inr begun
  · by_cases asserts : op = .assertReset
    · subst asserts
      exact .inl ⟨rest, mover, s.begin_host.symm.trans queued⟩
    · have kept : ({ s.begin with host := rest } : State).SameBlock t :=
        hostOp_sameBlock_of_faulted (status ▸ faulted) asserts stepped
      exact .inr ((begun.trans (s.begin.sameBlock_withHost rest)).trans kept)

/-- After a fault a transaction with WE = 1, legal or not, does nothing. -/
theorem transact_write_of_faulted {w : BitVec 38} (faulted : s.status.fault = true) (running : s.rst = false)
    (write : fieldWE w = true) : transact w s = .next s := by
  rcases transact_cases w s with ⟨held, -⟩ | ⟨-, i, decoded, h⟩ | ⟨-, -, h⟩
  · simp [running] at held
  · rcases decodeTransaction_direction decoded with ⟨-, writes⟩ | ⟨reads, -⟩
    · exact h.trans (exec_write_of_faulted writes faulted)
    · simp [write] at reads
  · rw [h, write, State.illegalAccess_of_faulted faulted]
    rfl

end

/-- Settles O46: the busy case of each transaction; an illegal one does not ask for BUSY. -/
theorem busyWindow : Obligations.BusyWindow := by
  intro s busy working
  refine ⟨fun i w => ?_, fun w => ?_, fun i read => ?_, ?_, fun w read running illegal => ?_⟩
  · exact ⟨_, exec_write_of_busy (.inl ⟨i, w, rfl⟩) working busy, s.hostFaulted_raise .hazard⟩
  · exact ⟨_, exec_write_of_busy (.inr ⟨w, rfl⟩) working busy, s.hostFaulted_raise .hazard⟩
  · exact ⟨_, exec_read_of_busy read busy, rfl, s.sameBlock_respondUndefined, rfl, rfl, rfl⟩
  · exact ⟨_, rfl, rfl, s.sameBlock_respond _⟩
  · exact ⟨_, transact_of_illegal running illegal, State.hostFaulted_illegalAccess working read⟩

/-- Settles O47: the addresses of R159 hit no row, so the transaction is answered as an illegal access of its direction. -/
theorem illegalTransactions : Obligations.IllegalTransactions := by
  intro s w running we addr illegal
  refine ⟨_, transact_of_illegal running (decodeTransaction_of_illegal illegal), fun working => ?_, fun faulted => ?_, ?_⟩
  · exact State.hostFaulted_illegalAccess working _
  · rw [State.illegalAccess_of_faulted faulted]
    exact ⟨s.sameBlock_ignoredInReset _, s.sameOutside_ignoredInReset _⟩
  · rw [State.illegalAccess_rspRdata]
    change (if !fieldWE w then some 0#32 else s.rspRdata) = if fieldWE w then s.rspRdata else some 0#32
    cases fieldWE w <;> rfl

/-- Settles O48: a write does nothing, a read answers its register as it stands, and a step but a reset keeps STATUS. -/
theorem writesIgnoredAfterFault : Obligations.WritesIgnoredAfterFault := by
  intro s faulted idle running
  refine ⟨fun w write => transact_write_of_faulted faulted running write, fun i => ⟨_, exec_rdbuf_of_idle i idle, rfl⟩,
    ⟨_, rfl, rfl⟩, ⟨_, exec_rdresult_of_idle idle, rfl⟩, ⟨_, exec_rdcfg_of_idle idle, rfl⟩, fun t stepped cleared => ?_⟩
  rcases step_sameBlock_of_faulted faulted idle running stepped with reset | ⟨-, -, status, -, -⟩
  · exact reset
  · rw [status, faulted] at cleared
    exact absurd cleared (by decide)

end Sys2Proof.Machine
end

section
/-! Raising a fault: what each instruction leaves, the order of a command's checks, and the frozen block (60_exceptions R173 to
R177). -/

namespace Sys2Proof.Machine

/-! Which instructions fault, and what they leave then. -/

/-- A write faults with HAZARD, or leaves FAULT as it was where its effect does. -/
theorem State.hostWrite_faults_or_keeps (s : State) {effect : State} (kept : effect.status.fault = s.status.fault) :
    (s.hostWrite effect).status.fault = s.status.fault ∨ s.HostFaulted (s.hostWrite effect) .hazard := by
  rcases s.hostWrite_cases effect with ⟨-, h⟩ | ⟨-, -, h⟩ | ⟨-, -, h⟩ <;> rw [h]
  · exact .inl rfl
  · exact .inr (s.hostFaulted_raise .hazard)
  · exact .inl kept

section
variable {s t : State}

theorem exec_read_keeps_fault {i : Instr} (read : i.IsRead) (runs : exec i s = .next t) :
    t.status.fault = s.status.fault := by
  obtain ⟨-, -, status, -, -⟩ := exec_read_sameBlock read runs
  exact congrArg Status.fault status

/-- An instruction keeps FAULT, or it has faulted as a command or as a host transaction does (R173, R174). -/
theorem exec_faults_or_keeps {i : Instr} (runs : exec i s = .next t) :
    t.status.fault = s.status.fault ∨ ∃ c, s.CommandFaulted t c ∨ s.HostFaulted t c := by
  cases i with
  | configure n na =>
    cases runs
    rcases s.configure_cases n na with ⟨-, h⟩ | ⟨-, -, h⟩ | ⟨syn, -, -, h⟩ <;> rw [h]
    · exact .inr ⟨_, .inl (s.commandFaulted_configureFails .configSize)⟩
    · exact .inr ⟨_, .inl (s.commandFaulted_configureFails .configCollision)⟩
    · exact .inl rfl
  | encode len =>
    rcases execEncode_cases len s with ⟨-, h⟩ | ⟨-, -, h⟩ | ⟨-, -, h⟩ <;> cases h.symm.trans runs
    · exact .inr ⟨_, .inl (s.commandFaulted_raise .notConfigured)⟩
    · exact .inr ⟨_, .inl (s.commandFaulted_raise .length)⟩
    · rcases (s.readOperand s.cfg.len).encodeValue_cases s.cfg.len (s.bufRead s.cfg.len) with ⟨-, -, h⟩ | ⟨-, h⟩ <;> rw [h]
      · exact .inr ⟨_, .inl ((s.readOperand s.cfg.len).commandFaulted_raise .encodePrecond)⟩
      · exact .inl rfl
  | decode len =>
    rcases execDecode_cases len s with ⟨-, h⟩ | ⟨-, -, h⟩ | ⟨-, -, h⟩ <;> cases h.symm.trans runs
    · exact .inr ⟨_, .inl (s.commandFaulted_raise .notConfigured)⟩
    · exact .inr ⟨_, .inl (s.commandFaulted_raise .length)⟩
    · left
      rcases (s.readOperand s.cfg.len).decodeValue_cases s.cfg.len (s.bufRead s.cfg.len) with
        ⟨-, h⟩ | ⟨-, -, h⟩ | ⟨-, -, h⟩ <;> rw [h] <;> rfl
  | parity len =>
    rcases execParity_cases len s with ⟨-, h⟩ | ⟨-, h⟩ <;> cases h.symm.trans runs
    · exact .inr ⟨_, .inl (s.commandFaulted_raise .length)⟩
    · exact .inl rfl
  | wrbuf k w =>
    cases runs
    exact (s.hostWrite_faults_or_keeps (effect := s.setByte k (w.setWidth 8)) rfl).imp_right fun h => ⟨_, .inr h⟩
  | wrcmd w =>
    cases runs
    exact (s.hostWrite_faults_or_keeps (effect := s.issue w) rfl).imp_right fun h => ⟨_, .inr h⟩
  | rdbuf k => exact .inl (exec_read_keeps_fault (.inr (.inr (.inr ⟨k, rfl⟩))) runs)
  | rdstatus => exact .inl (exec_read_keeps_fault (.inl rfl) runs)
  | rdresult => exact .inl (exec_read_keeps_fault (.inr (.inl rfl)) runs)
  | rdcfg => exact .inl (exec_read_keeps_fault (.inr (.inr (.inl rfl))) runs)

/-- An instruction that sets FAULT has ended the pending command and left the buffer. -/
theorem exec_precise {i : Instr} (runs : exec i s = .next t) (working : s.status.fault = false)
    (faulted : t.status.fault = true) : s.SameBuffer t ∧ t.status.busy = false ∧ t.pend = 0#32 := by
  rcases exec_faults_or_keeps runs with kept | ⟨c, ⟨⟨-, -, idle, empty⟩, -, buffer, -⟩ | ⟨⟨-, -, idle, empty⟩, -, buffer, -⟩⟩
  · exact absurd (faulted.symm.trans (kept.trans working)) (by decide)
  · exact ⟨buffer, idle, empty⟩
  · exact ⟨buffer, idle, empty⟩

end

/-- Settles O51: the latch is the same for both raisers, and only a command's RESULT is written. -/
theorem faultEntry : Obligations.FaultEntry := fun s c =>
  ⟨⟨s.commandFaulted_raise c, s.sameInstance_raise .command c, rfl, rfl⟩, s.hostFaulted_raise c, rfl, rfl⟩

/-- Settles O52: FAULT is set by raising a fault alone, which leaves the buffer; a WRCMD of the faulted block is ignored. -/
theorem faultsArePrecise : Obligations.FaultsArePrecise := by
  intro i s t runs working faulted
  obtain ⟨buffer, idle, empty⟩ := exec_precise runs working faulted
  refine ⟨buffer, fun other => ?_, exec_outside runs, idle, empty, fun w => ?_⟩
  · exact exec_sameInstance (fun ⟨n, na, configures⟩ => other n na configures) runs
  · exact exec_write_of_faulted (.inr ⟨w, rfl⟩) faulted

/-! The order of a command's checks (R175). -/

section
variable {s t : State}

/-- The completion step runs the command that PEND holds. -/
theorem codecMove_of_command {i : Instr} (busy : s.status.busy = true) (decoded : Sys2Proof.decodeCommand s.pend = .ok i) :
    codecMove s = exec i s := by
  simp [codecMove, busy, decoded]

/-- A fatal code is no double error. -/
theorem State.CommandFaulted.err_ne_doubleErrorCode {c : Cause} (faulted : s.CommandFaulted t c) :
    t.result.err ≠ doubleErrorCode := by
  obtain ⟨-, result, -, -⟩ := faulted
  intro double
  have code : c.code = doubleErrorCode := by rw [← double, result]
  exact absurd (code ▸ c.code_fatal) (by decide)

/-- DECODE reports a double error only of an operand that has passed its checks. -/
theorem exec_decode_double_passes_checks {len : Nat} (runs : exec (.decode len) s = .next t)
    (double : t.result.err = doubleErrorCode) : s.cfg.valid = true ∧ len = s.cfg.len := by
  rcases execDecode_cases len s with ⟨-, h⟩ | ⟨-, -, h⟩ | ⟨valid, length, -⟩
  · cases h.symm.trans runs
    exact absurd double (s.commandFaulted_raise .notConfigured).err_ne_doubleErrorCode
  · cases h.symm.trans runs
    exact absurd double (s.commandFaulted_raise .length).err_ne_doubleErrorCode
  · exact ⟨valid, length⟩

/-- A CONFIGURE of a legal size reports no error: its table always builds (41_matrix_builder R121). -/
theorem exec_configure_of_legal {n : Nat} (na : Bool) (small : 1 ≤ n) (large : n ≤ 120) :
    ∃ t, exec (.configure n na) s = .next t ∧ t.status.fault = s.status.fault ∧ t.result = Result.zero := by
  obtain ⟨syn, built, -⟩ := syndromeTable_of_legal small large
  exact ⟨_, congrArg Host.Outcome.next (s.configure_of_legal na small large built), rfl, rfl⟩

theorem exec_configure_of_illegal {n : Nat} (na : Bool) (illegal : n < 1 ∨ 120 < n) :
    exec (.configure n na) s = .next (s.configureFails .configSize) :=
  congrArg Host.Outcome.next (if_pos illegal)

theorem exec_parity_of_long {len : Nat} (long : 16 < len) : exec (.parity len) s = .next (s.raise .command .length) :=
  if_pos long

end

/-- Settles O53: the completion step runs the decoded command, whose first failing check raises the fault. -/
theorem priorityOfChecks : Obligations.PriorityOfChecks := by
  intro s busy l faultsWith
  refine ⟨fun illegal => ?_, fun n na decoded illegal => ?_, fun n na decoded small large => ?_, fun len decoded => ?_,
    fun len decoded valid length checks dirty => ?_, fun len t decoded completes double => ?_, fun len decoded long => ?_⟩
  · exact ⟨_, codecMove_of_illegal busy illegal, s.commandFaulted_raise .illegalCommand⟩
  · exact ⟨_, (codecMove_of_command busy decoded).trans (exec_configure_of_illegal na illegal),
      s.commandFaulted_configureFails .configSize⟩
  · obtain ⟨t, runs, fault, result⟩ := exec_configure_of_legal (s := s) na small large
    exact ⟨t, (codecMove_of_command busy decoded).trans runs, fault, congrArg Result.err result⟩
  · rcases decoded with encodes | decodes
    · have runs := codecMove_of_command busy encodes
      exact ⟨fun unset => ⟨_, runs.trans (execEncode_of_not_valid len unset), s.commandFaulted_raise .notConfigured⟩,
        fun valid wrong => ⟨_, runs.trans (exec_encode_of_length valid wrong), s.commandFaulted_raise .length⟩⟩
    · have runs := codecMove_of_command busy decodes
      exact ⟨fun unset => ⟨_, runs.trans (execDecode_of_not_valid len unset), s.commandFaulted_raise .notConfigured⟩,
        fun valid wrong => ⟨_, runs.trans (exec_decode_of_length valid wrong), s.commandFaulted_raise .length⟩⟩
  · subst length
    exact ⟨_, (codecMove_of_command busy decoded).trans (exec_encode_of_refused valid checks dirty),
      (s.readOperand s.cfg.len).commandFaulted_raise .encodePrecond⟩
  · exact exec_decode_double_passes_checks ((codecMove_of_command busy decoded).symm.trans completes) double
  · exact ⟨_, (codecMove_of_command busy decoded).trans (exec_parity_of_long long), s.commandFaulted_raise .length⟩

/-- Settles O54: a step that is no reset leaves the faulted block as it is. -/
theorem faultedBlockIsFrozen : Obligations.FaultedBlockIsFrozen := fun _ _ faulted idle running stepped =>
  step_sameBlock_of_faulted faulted idle running stepped

end Sys2Proof.Machine
end

section
/-! Decoding what was encoded, and encoding what was decoded (30_encoding R70, R76): the fields of a form determine it, and
WE and ADDR determine the row that a transaction hits. -/

namespace Sys2Proof

open Sys2Proof.Machine

/-! The fields of an encoded word are the operands that it was made of. -/

section
variable (op : BitVec 4) (n len : Nat) (na : Bool)

/-- The fields of format `CFGW` (R70). -/
theorem cfgwWord_fields : (cfgwWord op n na).extractLsb' 0 4 = op ∧ (cfgwWord op n na).extractLsb' 4 4 = 0#4 ∧
    (cfgwWord op n na).extractLsb' 8 7 = BitVec.ofNat 7 n ∧ (cfgwWord op n na).getLsbD 15 = na ∧
    (cfgwWord op n na).extractLsb' 16 16 = 0#16 := by
  simp (disch := decide) [cfgwWord, placeBit, getLsbD_place_ofBool, getLsbD_place_apart, BitVec.extractLsb'_or,
    extractLsb'_place_same, extractLsb'_place_apart, -BitVec.getLsbD_eq_getElem]

/-- The fields of format `BUFW` (R70). -/
theorem bufwWord_fields : (bufwWord op len).extractLsb' 0 4 = op ∧ (bufwWord op len).extractLsb' 4 4 = 0#4 ∧
    (bufwWord op len).extractLsb' 8 5 = BitVec.ofNat 5 len ∧ (bufwWord op len).extractLsb' 13 19 = 0#19 := by
  simp (disch := decide) [bufwWord, BitVec.extractLsb'_or, extractLsb'_place_same, extractLsb'_place_apart]

end

section
variable (we : Bool) (addr : BitVec 5) (wdata : Word)

@[simp] theorem fieldWE_transactionWord : fieldWE (transactionWord we addr wdata) = we := by
  simp (disch := decide) [fieldWE, transactionWord, placeBit, getLsbD_place_ofBool, getLsbD_place_apart,
    -BitVec.getLsbD_eq_getElem]

@[simp] theorem fieldAddr_transactionWord : fieldAddr (transactionWord we addr wdata) = addr := by
  simp (disch := decide) [fieldAddr, transactionWord, placeBit, BitVec.extractLsb'_or, extractLsb'_place_same,
    extractLsb'_place_apart]

@[simp] theorem fieldWdata_transactionWord : fieldWdata (transactionWord we addr wdata) = wdata := by
  simp (disch := decide) [fieldWdata, transactionWord, placeBit, BitVec.extractLsb'_or, extractLsb'_place_same,
    extractLsb'_place_apart]

end

/-! The fields of a form determine it. -/

/-- A word that has the fields of a `CFGW` word is that word: `NA` and `N` make up bits 15:8. -/
theorem cfgwWord_eq {w : Word} {op : BitVec 4} (opcode : w.extractLsb' 0 4 = op) (reserved : w.extractLsb' 4 4 = 0#4)
    (high : w.extractLsb' 16 16 = 0#16) : cfgwWord op (fieldN w) (fieldNA w) = w := by
  obtain ⟨opcode', reserved', size', noassert', high'⟩ := cfgwWord_fields op (fieldN w) (fieldNA w)
  rw [fieldN, BitVec.ofNat_toNat, BitVec.setWidth_eq] at size'
  refine (word_eq_iff_fields (n := 8) (m := 16) rfl).mpr ⟨opcode'.trans opcode.symm, reserved'.trans reserved.symm, ?_,
    high'.trans high.symm⟩
  refine BitVec.eq_of_getLsbD_eq fun k inside => ?_
  simp only [BitVec.getLsbD_extractLsb', inside, decide_true, Bool.true_and]
  rcases Nat.lt_or_ge k 7 with low | top
  · exact getLsbD_eq_of_extractLsb'_eq size' (by omega) (by omega)
  · obtain rfl : k = 7 := by omega
    exact noassert'

/-- A word that has the fields of a `BUFW` word is that word. -/
theorem bufwWord_eq {w : Word} {op : BitVec 4} (opcode : w.extractLsb' 0 4 = op) (reserved : w.extractLsb' 4 4 = 0#4)
    (high : w.extractLsb' 13 19 = 0#19) : bufwWord op (fieldLen w) = w := by
  obtain ⟨opcode', reserved', length', high'⟩ := bufwWord_fields op (fieldLen w)
  rw [fieldLen, BitVec.ofNat_toNat, BitVec.setWidth_eq] at length'
  exact (word_eq_iff_fields (n := 5) (m := 19) rfl).mpr ⟨opcode'.trans opcode.symm, reserved'.trans reserved.symm, length',
    high'.trans high.symm⟩

/-- A transaction is made of its three fields (R76). -/
theorem transactionWord_of_fields (t : BitVec 38) : transactionWord (fieldWE t) (fieldAddr t) (fieldWdata t) = t := by
  have addr := fieldAddr_transactionWord (fieldWE t) (fieldAddr t) (fieldWdata t)
  have wdata := fieldWdata_transactionWord (fieldWE t) (fieldAddr t) (fieldWdata t)
  refine BitVec.eq_of_getLsbD_eq fun k inside => ?_
  rcases Nat.lt_or_ge k 32 with _ | _
  · exact getLsbD_eq_of_extractLsb'_eq wdata (by omega) (by omega)
  rcases Nat.lt_or_ge k 37 with _ | _
  · exact getLsbD_eq_of_extractLsb'_eq addr (by omega) (by omega)
  · obtain rfl : k = 37 := by omega
    exact fieldWE_transactionWord (fieldWE t) (fieldAddr t) (fieldWdata t)

/-! Which row a transaction hits, by its WE and ADDR. -/

/-- Bits 37:32 of a transaction: WE above ADDR. -/
def transactionHead (t : BitVec 38) : BitVec 6 := t.extractLsb' 32 6

/-- The test of a row on bits 37:32 alone. -/
def Row.headHits (r : Row 38) (head : BitVec 6) : Bool :=
  (Row.mk (r.mask.extractLsb' 32 6) (r.pattern.extractLsb' 32 6)).hits head

/-- No mask includes a bit of WDATA, so a row is hit exactly where it is hit in bits 37:32. -/
theorem hits_eq_headHits {r : Row 38} (row : r ∈ transactionRows) (t : BitVec 38) :
    r.hits t = r.headHits (transactionHead t) := by
  have leftOut : ∀ r ∈ transactionRows, r.mask.extractLsb' 0 32 = 0#32 ∧ r.pattern.extractLsb' 0 32 = 0#32 := by decide
  obtain ⟨mask, pattern⟩ := leftOut r row
  refine Bool.eq_iff_iff.mpr ⟨head_hits_of_hits, fun hit => ?_⟩
  have low : (t &&& r.mask).extractLsb' 0 32 = r.pattern.extractLsb' 0 32 := by
    rw [BitVec.extractLsb'_and, mask, pattern, BitVec.and_zero]
  have head : (t &&& r.mask).extractLsb' 32 6 = r.pattern.extractLsb' 32 6 := by
    rw [BitVec.extractLsb'_and]
    exact eq_of_beq hit
  refine beq_iff_eq.mpr (BitVec.eq_of_getLsbD_eq fun k inside => ?_)
  rcases Nat.lt_or_ge k 32 with _ | _
  · exact getLsbD_eq_of_extractLsb'_eq low (by omega) (by omega)
  · exact getLsbD_eq_of_extractLsb'_eq head (by omega) (by omega)

section
variable (t : BitVec 38)

theorem transactionHead_we : (transactionHead t).getLsbD 5 = fieldWE t := by simp [transactionHead, fieldWE]

theorem transactionHead_addr : (transactionHead t).extractLsb' 0 5 = fieldAddr t :=
  BitVec.eq_of_getLsbD_eq fun i inside => by simp [transactionHead, fieldAddr, inside, show i < 6 by omega]

/-- WRBUF and RDBUF take ADDR 0 to 15, and each other row one ADDR: searched over all heads. -/
theorem headHits_iff (head : BitVec 6) :
    (wrbufRow.headHits head = true ↔ head.getLsbD 5 = true ∧ (head.extractLsb' 0 5).toNat < 16) ∧
    (rdbufRow.headHits head = true ↔ head.getLsbD 5 = false ∧ (head.extractLsb' 0 5).toNat < 16) ∧
    (wrcmdRow.headHits head = true ↔ head.getLsbD 5 = true ∧ (head.extractLsb' 0 5).toNat = 16) ∧
    (rdstatusRow.headHits head = true ↔ head.getLsbD 5 = false ∧ (head.extractLsb' 0 5).toNat = 17) ∧
    (rdresultRow.headHits head = true ↔ head.getLsbD 5 = false ∧ (head.extractLsb' 0 5).toNat = 18) ∧
    (rdcfgRow.headHits head = true ↔ head.getLsbD 5 = false ∧ (head.extractLsb' 0 5).toNat = 19) := by
  revert head
  decide

/-- The decoder's rows as tests of WE and ADDR (R76). -/
theorem transactionRows_hits_iff :
    (wrbufRow.hits t = true ↔ fieldWE t = true ∧ (fieldAddr t).toNat < 16) ∧
    (rdbufRow.hits t = true ↔ fieldWE t = false ∧ (fieldAddr t).toNat < 16) ∧
    (wrcmdRow.hits t = true ↔ fieldWE t = true ∧ (fieldAddr t).toNat = 16) ∧
    (rdstatusRow.hits t = true ↔ fieldWE t = false ∧ (fieldAddr t).toNat = 17) ∧
    (rdresultRow.hits t = true ↔ fieldWE t = false ∧ (fieldAddr t).toNat = 18) ∧
    (rdcfgRow.hits t = true ↔ fieldWE t = false ∧ (fieldAddr t).toNat = 19) := by
  have rows := headHits_iff (transactionHead t)
  simp only [transactionHead_we, transactionHead_addr] at rows
  simpa only [hits_eq_headHits (r := wrbufRow) (by decide), hits_eq_headHits (r := rdbufRow) (by decide),
    hits_eq_headHits (r := wrcmdRow) (by decide), hits_eq_headHits (r := rdstatusRow) (by decide),
    hits_eq_headHits (r := rdresultRow) (by decide), hits_eq_headHits (r := rdcfgRow) (by decide)] using rows

end

/-- An ADDR of 0 to 15 is the buffer index. -/
theorem fieldIndex_eq {t : BitVec 38} {i : Fin 16} (addr : (fieldAddr t).toNat = i.val) : fieldIndex t = i := by
  rw [fieldIndex, addr]
  exact Fin.ext (Nat.mod_eq_of_lt i.isLt)

/-! What the decoder answers, by WE and ADDR. -/

section
variable {t : BitVec 38}

theorem decodeTransaction_wrbuf (we : fieldWE t = true) {i : Fin 16} (addr : (fieldAddr t).toNat = i.val) :
    decodeTransaction t = .ok (.wrbuf i (fieldWdata t)) := by
  simp [decodeTransaction, transactionRows_hits_iff, we, addr, fieldIndex_eq addr]

theorem decodeTransaction_rdbuf (we : fieldWE t = false) {i : Fin 16} (addr : (fieldAddr t).toNat = i.val) :
    decodeTransaction t = .ok (.rdbuf i) := by
  simp [decodeTransaction, transactionRows_hits_iff, we, addr, fieldIndex_eq addr]

theorem decodeTransaction_wrcmd (we : fieldWE t = true) (addr : (fieldAddr t).toNat = 16) :
    decodeTransaction t = .ok (.wrcmd (fieldWdata t)) := by
  simp [decodeTransaction, transactionRows_hits_iff, we, addr]

theorem decodeTransaction_rdstatus (we : fieldWE t = false) (addr : (fieldAddr t).toNat = 17) :
    decodeTransaction t = .ok .rdstatus := by
  simp [decodeTransaction, transactionRows_hits_iff, we, addr]

theorem decodeTransaction_rdresult (we : fieldWE t = false) (addr : (fieldAddr t).toNat = 18) :
    decodeTransaction t = .ok .rdresult := by
  simp [decodeTransaction, transactionRows_hits_iff, we, addr]

theorem decodeTransaction_rdcfg (we : fieldWE t = false) (addr : (fieldAddr t).toNat = 19) :
    decodeTransaction t = .ok .rdcfg := by
  simp [decodeTransaction, transactionRows_hits_iff, we, addr]

end

/-- Settles O5: each row is a test of WE and ADDR, and the other addresses hit none. -/
theorem transactionDecoding : Obligations.TransactionDecoding := by
  intro t we addr wdata
  refine ⟨fun write i => decodeTransaction_wrbuf write, fun read i => decodeTransaction_rdbuf read,
    decodeTransaction_wrcmd, decodeTransaction_rdstatus, decodeTransaction_rdresult, decodeTransaction_rdcfg,
    fun write high => ?_, fun read other => ?_⟩
  · have write' : fieldWE t = true := write
    rw [decodeTransaction_of_illegal (.inl ⟨write', high⟩), write', Bool.not_true]
  · have read' : fieldWE t = false := read
    rw [decodeTransaction_of_illegal (.inr ⟨read', other⟩), read', Bool.not_false]

/-! Round trips. -/

/-- The three commands of format `BUFW` read their length back. -/
theorem fieldLen_bufwWord (op : BitVec 4) {len : Nat} (fits : len ≤ 31) : fieldLen (bufwWord op len) = len := by
  obtain ⟨-, -, length, -⟩ := bufwWord_fields op len
  rw [fieldLen, length]
  exact Nat.mod_eq_of_lt (by omega)

/-- CONFIGURE reads its size and its flag back. -/
theorem fieldN_fieldNA_cfgwWord (op : BitVec 4) {n : Nat} (na : Bool) (fits : n ≤ 127) :
    fieldN (cfgwWord op n na) = n ∧ fieldNA (cfgwWord op n na) = na := by
  obtain ⟨-, -, size, noassert, -⟩ := cfgwWord_fields op n na
  refine ⟨?_, noassert⟩
  rw [fieldN, size]
  exact Nat.mod_eq_of_lt (by omega)

/-- Settles O1: each encoding hits its own row, and its fields are the operands, which fit them. -/
theorem decodeEncodeRoundTrip : Obligations.DecodeEncodeRoundTrip := by
  intro i wf
  cases i with
  | configure n na =>
    obtain ⟨size, noassert⟩ := fieldN_fieldNA_cfgwWord 1#4 na (of_decide_eq_true wf)
    refine (decodeCommand_of_configureRow (Laws.RowMatch.configure n na)).trans ?_
    rw [size, noassert]
  | encode len =>
    refine (decodeCommand_of_encodeRow (Laws.RowMatch.encode len)).trans ?_
    rw [fieldLen_bufwWord 2#4 (of_decide_eq_true wf)]
  | decode len =>
    refine (decodeCommand_of_decodeRow (Laws.RowMatch.decode len)).trans ?_
    rw [fieldLen_bufwWord 3#4 (of_decide_eq_true wf)]
  | parity len =>
    refine (decodeCommand_of_parityRow (Laws.RowMatch.parity len)).trans ?_
    rw [fieldLen_bufwWord 4#4 (of_decide_eq_true wf)]
  | wrbuf i wdata =>
    refine (decodeTransaction_wrbuf (i := i) (by simp) ?_).trans (by simp)
    simp [Nat.mod_eq_of_lt (show i.val < 32 by omega)]
  | rdbuf i =>
    refine decodeTransaction_rdbuf (i := i) (by simp) ?_
    simp [Nat.mod_eq_of_lt (show i.val < 32 by omega)]
  | wrcmd w => exact (decodeTransaction_wrcmd (by simp) (by simp)).trans (by simp)
  | rdstatus => exact decodeTransaction_rdstatus (by simp) (by simp)
  | rdresult => exact decodeTransaction_rdresult (by simp) (by simp)
  | rdcfg => exact decodeTransaction_rdcfg (by simp) (by simp)

/-! A form that decodes is the encoding of what it decodes to. -/

theorem fieldN_le (w : Word) : fieldN w ≤ 127 := Nat.le_of_lt_succ (w.extractLsb' 8 7).isLt

theorem fieldLen_le (w : Word) : fieldLen w ≤ 31 := Nat.le_of_lt_succ (w.extractLsb' 8 5).isLt

/-- A command word that decodes is the encoding of its command: its reserved bits are 0. -/
theorem encode_of_decodeCommand {w : Word} {i : Instr} (decoded : decodeCommand w = .ok i) :
    i.wf = true ∧ encode i = .command w := by
  unfold decodeCommand at decoded
  split_ifs at decoded with configure encode decode parity <;> cases decoded
  · obtain ⟨opcode, reserved, high⟩ := (configureRow_hits_iff w).mp configure
    exact ⟨decide_eq_true (fieldN_le w), congrArg Encoded.command (cfgwWord_eq opcode reserved high)⟩
  · obtain ⟨opcode, reserved, high⟩ := (encodeRow_hits_iff w).mp encode
    exact ⟨decide_eq_true (fieldLen_le w), congrArg Encoded.command (bufwWord_eq opcode reserved high)⟩
  · obtain ⟨opcode, reserved, high⟩ := (decodeRow_hits_iff w).mp decode
    exact ⟨decide_eq_true (fieldLen_le w), congrArg Encoded.command (bufwWord_eq opcode reserved high)⟩
  · obtain ⟨opcode, reserved, high⟩ := (parityRow_hits_iff w).mp parity
    exact ⟨decide_eq_true (fieldLen_le w), congrArg Encoded.command (bufwWord_eq opcode reserved high)⟩

section
variable {t : BitVec 38}

/-- The ADDR of a buffer access is its index. -/
theorem ofNat_fieldIndex (low : (fieldAddr t).toNat < 16) : BitVec.ofNat 5 (fieldIndex t).val = fieldAddr t := by
  rw [fieldIndex_eq (i := ⟨_, low⟩) rfl, BitVec.ofNat_toNat, BitVec.setWidth_eq]

/-- A write is its WE, ADDR and WDATA. -/
theorem canonical_of_write (we : fieldWE t = true) {addr : BitVec 5} (same : fieldAddr t = addr) :
    Encoded.transaction (transactionWord true addr (fieldWdata t)) = (Encoded.transaction t).canonical := by
  rw [Encoded.canonical, if_pos we, ← we, ← same, transactionWord_of_fields]

/-- A read is its WE and ADDR. -/
theorem canonical_of_read (we : fieldWE t = false) {addr : BitVec 5} (same : fieldAddr t = addr) :
    Encoded.transaction (transactionWord false addr 0#32) = (Encoded.transaction t).canonical := by
  rw [Encoded.canonical, we, same, if_neg Bool.false_ne_true]

/-- A transaction that decodes is the encoding of its instruction, but for the WDATA of a read. -/
theorem encode_of_decodeTransaction {i : Instr} (decoded : decodeTransaction t = .ok i) :
    i.wf = true ∧ encode i = (Encoded.transaction t).canonical := by
  obtain ⟨wrbuf_iff, rdbuf_iff, wrcmd_iff, rdstatus_iff, rdresult_iff, rdcfg_iff⟩ := transactionRows_hits_iff t
  unfold decodeTransaction at decoded
  split_ifs at decoded with wrbuf rdbuf wrcmd rdstatus rdresult rdcfg <;> cases decoded
  · obtain ⟨we, low⟩ := wrbuf_iff.mp wrbuf
    exact ⟨rfl, canonical_of_write we (ofNat_fieldIndex low).symm⟩
  · obtain ⟨we, low⟩ := rdbuf_iff.mp rdbuf
    exact ⟨rfl, canonical_of_read we (ofNat_fieldIndex low).symm⟩
  · obtain ⟨we, addr⟩ := wrcmd_iff.mp wrcmd
    exact ⟨rfl, canonical_of_write we (BitVec.eq_of_toNat_eq addr)⟩
  · obtain ⟨we, addr⟩ := rdstatus_iff.mp rdstatus
    exact ⟨rfl, canonical_of_read we (BitVec.eq_of_toNat_eq addr)⟩
  · obtain ⟨we, addr⟩ := rdresult_iff.mp rdresult
    exact ⟨rfl, canonical_of_read we (BitVec.eq_of_toNat_eq addr)⟩
  · obtain ⟨we, addr⟩ := rdcfg_iff.mp rdcfg
    exact ⟨rfl, canonical_of_read we (BitVec.eq_of_toNat_eq addr)⟩

end

/-- Settles O2: a row that is hit fixes the opcode, the reserved bits and the address, and the fields are the operands. -/
theorem decodedFormsAreCanonical : Obligations.DecodedFormsAreCanonical := by
  intro e i decoded
  cases e with
  | command w => exact encode_of_decodeCommand decoded
  | transaction t => exact encode_of_decodeTransaction decoded

end Sys2Proof
end

section
/-! The invariant (10_state R26 to R38, 70_reset R190): its part on STATUS, RESULT and PEND, which every instruction keeps,
and its part on CFG and the tables, which a CONFIGURE replaces; while `rst = 1` the block stays in the reset state. -/

namespace Sys2Proof.Machine

/-! The block in the reset state. -/

theorem State.AtReset.of_sameBlock {s t : State} (reset : s.AtReset) (same : s.SameBlock t) : t.AtReset := by
  obtain ⟨statusWord, resultWord, cfgWord, unmasked, empty, undefined⟩ := reset
  obtain ⟨buffer, ⟨cfg, mask, -, -⟩, status, result, pend⟩ := same
  exact ⟨status ▸ statusWord, result ▸ resultWord, cfg ▸ cfgWord, mask.trans unmasked, pend.trans empty,
    fun i => (buffer i).2.trans (undefined i)⟩

theorem State.AtReset.idle {s : State} (reset : s.AtReset) : s.status.busy = false := by
  obtain ⟨statusWord, -⟩ := reset
  obtain ⟨busy, -⟩ := s.status.word_fields
  rw [← busy, statusWord, BitVec.getLsbD_zero]

/-! What the host's transactions leave outside the block. -/

/-- A block that has not faulted faults, and then answers an illegal transaction as any is answered while `rst = 1`. -/
theorem State.illegalAccess_of_working {s : State} (working : s.status.fault = false) (read : Bool) :
    s.illegalAccess read = (s.raise .host .illegalAccess).ignoredInReset read := by
  simp [State.illegalAccess, State.ignoredInReset, working]

theorem State.sameOutside_illegalAccess (s : State) (read : Bool) : s.SameOutside (s.illegalAccess read) := by
  cases faulted : s.status.fault with
  | true =>
    rw [State.illegalAccess_of_faulted faulted]
    exact s.sameOutside_ignoredInReset read
  | false =>
    rw [State.illegalAccess_of_working faulted]
    exact (s.raise .host .illegalAccess).sameOutside_ignoredInReset read

theorem transact_outside {w : BitVec 38} {s t : State} (runs : transact w s = .next t) : s.SameOutside t := by
  rcases transact_cases w s with ⟨-, h⟩ | ⟨-, i, -, h⟩ | ⟨-, -, h⟩
  · cases h.symm.trans runs
    exact s.sameOutside_ignoredInReset _
  · exact exec_outside (h.symm.trans runs)
  · cases h.symm.trans runs
    exact s.sameOutside_illegalAccess _

/-! After a poll of WAIT the host's list may have changed, and nothing else. -/

section
variable (s : State)

theorem State.afterPoll_rst : s.afterPoll.rst = s.rst := by
  unfold State.afterPoll
  split <;> rfl

theorem State.afterPoll_turns : s.afterPoll.turns = s.turns := by
  unfold State.afterPoll
  split <;> rfl

theorem State.afterPoll_rspRdata : s.afterPoll.rspRdata = s.rspRdata := by
  unfold State.afterPoll
  split <;> rfl

end

/-- After a poll `wait` stays the host's next operation where the value read has bit 0 set. -/
theorem State.afterPoll_host {s : State} {v : Word} (read : s.rspRdata = some v) :
    s.afterPoll.host = if v.getLsbD 0 then .wait :: s.host else s.host := by
  simp only [State.afterPoll, read, Option.getD_some]
  split <;> rfl

/-- The level of `rst` is no register of the block. -/
theorem State.sameBlock_withRst (s : State) (level : Bool) : s.SameBlock { s with rst := level } :=
  ⟨fun _ => ⟨rfl, rfl⟩, ⟨rfl, rfl, rfl, rfl⟩, rfl, rfl, rfl⟩

/-! STATUS, RESULT and PEND. -/

/-- The part of the invariant on STATUS, RESULT and PEND. -/
structure State.RegistersLegal (s : State) : Prop where
  status : s.status.Legal
  result : s.result.Legal
  idle : s.status.busy = false → s.pend = 0#32

namespace State.RegistersLegal

section
variable {s : State} (legal : s.RegistersLegal)
include legal

theorem of_same {t : State} (status : t.status = s.status) (result : t.result = s.result) (pend : t.pend = s.pend) :
    t.RegistersLegal :=
  ⟨status ▸ legal.status, result ▸ legal.result, fun idle => pend.trans (legal.idle (status ▸ idle))⟩

theorem of_sameBlock {t : State} (same : s.SameBlock t) : t.RegistersLegal := by
  obtain ⟨-, -, status, result, pend⟩ := same
  exact legal.of_same status result pend

theorem raise (who : Raiser) (c : Cause) : (s.raise who c).RegistersLegal := by
  refine ⟨legal.status.raise who c, ?_, fun _ => rfl⟩
  cases who with
  | command => exact Result.faulted_legal c
  | host => exact legal.result

theorem ret {r : Result} (hr : r.Legal) : (s.ret r).RegistersLegal := ⟨legal.status.ret r, hr, fun _ => rfl⟩

/-- A WRCMD takes effect in a block without a fault alone, so BUSY and FAULT are not both 1. -/
theorem issue (w : Word) (working : s.status.fault = false) : (s.issue w).RegistersLegal := by
  refine ⟨⟨?_, legal.status.quiet, legal.status.fatal⟩, legal.result, fun idle => ?_⟩
  · rintro ⟨-, faulted⟩
    exact absurd (faulted.symm.trans working) (by decide)
  · exact absurd idle (by simp)

theorem hostWrite {effect : State} (written : s.status.fault = false → effect.RegistersLegal) :
    (s.hostWrite effect).RegistersLegal := by
  rcases s.hostWrite_cases effect with ⟨-, h⟩ | ⟨-, -, h⟩ | ⟨working, -, h⟩ <;> rw [h]
  · exact legal
  · exact legal.raise .host .hazard
  · exact written working

theorem illegalAccess (read : Bool) : (s.illegalAccess read).RegistersLegal := by
  cases faulted : s.status.fault with
  | true =>
    rw [State.illegalAccess_of_faulted faulted]
    exact legal.of_sameBlock (s.sameBlock_ignoredInReset read)
  | false =>
    rw [State.illegalAccess_of_working faulted]
    exact (legal.raise .host .illegalAccess).of_sameBlock (State.sameBlock_ignoredInReset _ read)

/-- A command's operand read leaves STATUS, RESULT and PEND. -/
theorem readOperand (l : Nat) : (s.readOperand l).RegistersLegal := legal.of_same rfl rfl rfl

theorem bufWrite (l : Nat) (v : Wide) : (s.bufWrite l v).RegistersLegal :=
  legal.of_same (s.bufWrite_status l v) (s.bufWrite_result l v) (s.bufWrite_pend l v)

theorem install (c : Cfg) (mask : Wide) (emat : Vector Wide 7) (syn : Vector SynEntry 256) :
    (s.install c mask emat syn).RegistersLegal := legal.of_same rfl rfl rfl

theorem configureFails (c : Cause) : (s.configureFails c).RegistersLegal :=
  (legal.of_same (t := s.dropInstance.undefineTables) rfl rfl rfl).raise .command c

theorem encodeValue (l : Nat) (v : Wide) : (s.encodeValue l v).RegistersLegal := by
  rcases s.encodeValue_cases l v with ⟨-, -, h⟩ | ⟨-, h⟩ <;> rw [h]
  · exact legal.raise .command .encodePrecond
  · exact (legal.bufWrite l _).ret Result.zero_legal

theorem decodeValue (l : Nat) (v : Wide) : (s.decodeValue l v).RegistersLegal := by
  rcases s.decodeValue_cases l v with ⟨-, h⟩ | ⟨-, -, h⟩ | ⟨-, -, h⟩ <;> rw [h]
  · exact (legal.bufWrite l _).ret (Result.decoded_legal _ _ _ fun _ => rfl)
  · exact (legal.bufWrite l _).ret (Result.decoded_legal _ _ _ fun h => absurd h (by decide))
  · exact legal.ret (Result.doubleError_legal _)

/-- Every instruction keeps STATUS, RESULT and PEND legal. -/
theorem exec {i : Instr} {t : State} (runs : exec i s = .next t) : t.RegistersLegal := by
  cases i with
  | configure n na =>
    cases runs
    rcases s.configure_cases n na with ⟨-, h⟩ | ⟨-, -, h⟩ | ⟨syn, -, -, h⟩ <;> rw [h]
    · exact legal.configureFails .configSize
    · exact legal.configureFails .configCollision
    · exact (legal.install (cfgOf n na) (maskOf (msel n + 1)) (matrix n) syn).ret Result.zero_legal
  | encode len =>
    rcases execEncode_cases len s with ⟨-, h⟩ | ⟨-, -, h⟩ | ⟨-, -, h⟩ <;> cases h.symm.trans runs
    · exact legal.raise .command .notConfigured
    · exact legal.raise .command .length
    · exact (legal.readOperand _).encodeValue _ _
  | decode len =>
    rcases execDecode_cases len s with ⟨-, h⟩ | ⟨-, -, h⟩ | ⟨-, -, h⟩ <;> cases h.symm.trans runs
    · exact legal.raise .command .notConfigured
    · exact legal.raise .command .length
    · exact (legal.readOperand _).decodeValue _ _
  | parity len =>
    rcases execParity_cases len s with ⟨-, h⟩ | ⟨-, h⟩ <;> cases h.symm.trans runs
    · exact legal.raise .command .length
    · exact (legal.readOperand len).ret (Result.parityOf_legal _ (s.countBytes_bytes_le len))
  | wrbuf k w => cases runs; exact legal.hostWrite fun _ => legal.of_same rfl rfl rfl
  | wrcmd w => cases runs; exact legal.hostWrite (legal.issue w)
  | rdbuf k => exact legal.of_sameBlock (exec_read_sameBlock (.inr (.inr (.inr ⟨k, rfl⟩))) runs)
  | rdstatus => exact legal.of_sameBlock (exec_read_sameBlock (.inl rfl) runs)
  | rdresult => exact legal.of_sameBlock (exec_read_sameBlock (.inr (.inl rfl)) runs)
  | rdcfg => exact legal.of_sameBlock (exec_read_sameBlock (.inr (.inr (.inl rfl))) runs)

end

end State.RegistersLegal

/-! CFG, MASK, EMAT and SYN. -/

/-- The part of the invariant on CFG, MASK, EMAT and SYN. -/
structure State.InstanceLegal (s : State) : Prop where
  cfg : s.cfg.Legal
  unmasked : s.cfg.valid = false → s.mask = 0#128
  tables : s.cfg.valid = true → s.TablesMatch

theorem State.TablesMatch.of_sameInstance {s t : State} (tables : s.TablesMatch) (same : s.SameInstance t) :
    t.TablesMatch := by
  obtain ⟨cfg, mask, emat, syn⟩ := same
  exact ⟨by rw [mask, cfg, tables.mask], by rw [emat, cfg, tables.emat], by rw [syn, cfg, tables.syn]⟩

theorem State.InstanceLegal.of_sameInstance {s t : State} (legal : s.InstanceLegal) (same : s.SameInstance t) :
    t.InstanceLegal := by
  have ⟨cfg, mask, _, _⟩ := same
  exact ⟨cfg ▸ legal.cfg, fun unset => mask.trans (legal.unmasked (cfg ▸ unset)),
    fun valid => (legal.tables (cfg ▸ valid)).of_sameInstance same⟩

/-- A block without a configuration: CFG and MASK are 0. -/
theorem State.InstanceLegal.of_zero {s : State} (cfg : s.cfg = Cfg.zero) (mask : s.mask = 0#128) : s.InstanceLegal :=
  ⟨cfg ▸ Cfg.zero_legal, fun _ => mask, fun valid => absurd (cfg ▸ valid) (by decide)⟩

/-- The configuration that CONFIGURE builds (R119): the tables are those of the `N` and the CS that CFG holds. -/
theorem State.Configured.instanceLegal {s : State} {n : Nat} {na : Bool} (configured : s.Configured n na) :
    s.InstanceLegal := by
  have legal : (cfgOf n na).Legal := Cfg.of_legal na configured.small configured.large
  have valid := cfgOf_valid n na
  have size : s.cfg.n.toNat = n := configured.cfg ▸ cfgOf_n_toNat na configured.large
  have check : s.cfg.cs.toNat = msel n + 1 := by
    rw [configured.cfg, legal.check valid, legal.rows valid, cfgOf_n_toNat na configured.large]
  refine ⟨configured.cfg ▸ legal, fun unset => ?_, fun _ => ⟨?_, ?_, ?_⟩⟩
  · exact absurd (configured.valid.symm.trans unset) (by decide)
  · rw [check, configured.mask]
  · rw [size, configured.emat]
  · rw [size, configured.syn]

/-- CONFIGURE leaves the configuration it has built, or none. -/
theorem State.instanceLegal_configure (s : State) (n : Nat) (na : Bool) : (s.configure n na).InstanceLegal := by
  rcases s.configure_cases n na with ⟨-, h⟩ | ⟨-, -, h⟩ | ⟨syn, size, built, h⟩ <;> rw [h]
  · exact .of_zero rfl rfl
  · exact .of_zero rfl rfl
  · have configured : State.Configured (State.ret (s.install (cfgOf n na) (maskOf (msel n + 1)) (matrix n) syn) Result.zero)
        n na := ⟨by omega, by omega, rfl, rfl, rfl, built⟩
    exact configured.instanceLegal

/-- Every instruction keeps CFG, MASK, EMAT and SYN legal. -/
theorem State.InstanceLegal.exec {i : Instr} {s t : State} (legal : s.InstanceLegal) (runs : exec i s = .next t) :
    t.InstanceLegal := by
  by_cases configures : ∃ n na, i = .configure n na
  · obtain ⟨n, na, rfl⟩ := configures
    cases runs
    exact s.instanceLegal_configure n na
  · exact legal.of_sameInstance (exec_sameInstance configures runs)

/-! The invariant is the two parts and, while `rst = 1`, the reset state. -/

theorem State.inv_iff (s : State) :
    s.Inv ↔ s.RegistersLegal ∧ s.InstanceLegal ∧ (s.rst = true → s.AtReset) :=
  ⟨fun ⟨status, result, cfg, idle, unmasked, tables, held⟩ =>
      ⟨⟨status, result, idle⟩, ⟨cfg, unmasked, tables⟩, held⟩,
    fun ⟨⟨status, result, idle⟩, ⟨cfg, unmasked, tables⟩, held⟩ =>
      ⟨status, result, cfg, idle, unmasked, tables, held⟩⟩

theorem State.Inv.of_sameBlock {s t : State} (inv : s.Inv) (same : s.SameBlock t) (held : t.rst = true → s.rst = true) :
    t.Inv := by
  obtain ⟨registers, codec, reset⟩ := s.inv_iff.mp inv
  have ⟨_, sameInstance, _, _, _⟩ := same
  exact t.inv_iff.mpr ⟨registers.of_sameBlock same, codec.of_sameInstance sameInstance,
    fun high => (reset (held high)).of_sameBlock same⟩

/-- Outside reset the invariant is its two parts. -/
theorem State.Inv.of_running {s : State} (running : s.rst = false) (registers : s.RegistersLegal)
    (codec : s.InstanceLegal) : s.Inv :=
  s.inv_iff.mpr ⟨registers, codec, fun held => absurd (held.symm.trans running) (by decide)⟩

/-- The reset state, whatever the level of `rst`. -/
theorem State.inv_applyReset (s : State) : s.applyReset.Inv :=
  s.applyReset.inv_iff.mpr ⟨⟨Status.zero_legal, Result.zero_legal, fun _ => rfl⟩, .of_zero rfl rfl,
    fun _ => s.applyReset_atReset⟩

/-- Settles O13: STATUS, RESULT, CFG, MASK and PEND are 0, and `rst` is low. -/
theorem invariantAtReset : Obligations.InvariantAtReset :=
  .of_running rfl ⟨Status.zero_legal, Result.zero_legal, fun _ => rfl⟩ (.of_zero rfl rfl)

/-! The agents' moves and the step keep it. -/

namespace State.Inv

section
variable {s t : State} (inv : s.Inv)
include inv

theorem exec {i : Instr} (running : s.rst = false) (runs : exec i s = .next t) : t.Inv := by
  obtain ⟨registers, codec, -⟩ := s.inv_iff.mp inv
  obtain ⟨rst, -, -⟩ := exec_outside runs
  exact .of_running (rst.trans running) (registers.exec runs) (codec.exec runs)

/-- While `rst = 1` no command is pending, so the completion step runs outside reset alone. -/
theorem running_of_busy (busy : s.status.busy = true) : s.rst = false :=
  Bool.eq_false_iff.mpr fun held => absurd (busy.symm.trans (inv.held held).idle) (by decide)

theorem codecMove (runs : codecMove s = .next t) : t.Inv := by
  rcases codecMove_cases s with ⟨-, h⟩ | ⟨busy, i, -, h⟩ | ⟨busy, -, -, h⟩
  · cases h.symm.trans runs
    exact inv
  · exact inv.exec (inv.running_of_busy busy) (h.symm.trans runs)
  · cases h.symm.trans runs
    obtain ⟨registers, codec, -⟩ := s.inv_iff.mp inv
    exact .of_running (inv.running_of_busy busy) (registers.raise .command .illegalCommand)
      (codec.of_sameInstance (s.sameInstance_raise .command .illegalCommand))

theorem transact {w : BitVec 38} (runs : transact w s = .next t) : t.Inv := by
  rcases transact_cases w s with ⟨held, h⟩ | ⟨running, i, -, h⟩ | ⟨running, -, h⟩
  · cases h.symm.trans runs
    exact inv.of_sameBlock (s.sameBlock_ignoredInReset _) fun _ => held
  · exact inv.exec running (h.symm.trans runs)
  · obtain ⟨rst, -, -⟩ := transact_outside runs
    cases h.symm.trans runs
    obtain ⟨registers, codec, -⟩ := s.inv_iff.mp inv
    exact .of_running (rst.trans running) (registers.illegalAccess _)
      (codec.of_sameInstance (s.sameInstance_illegalAccess _))

theorem poll (runs : poll s = .next t) : t.Inv := by
  cases h : Machine.transact rdstatusWord s with
  | next u =>
    simp only [Machine.poll, h] at runs
    cases runs
    exact (inv.transact h).of_sameBlock u.sameBlock_afterPoll fun held => u.afterPoll_rst ▸ held
  | fault f => cases f
  | refused r => simp [Machine.poll, h] at runs

theorem hostOp {op : HostOp} (runs : hostOp op s = .next t) : t.Inv := by
  cases op with
  | tx w => exact inv.transact runs
  | wait => exact inv.poll runs
  | assertReset => cases runs; exact State.inv_applyReset { s with rst := true }
  | releaseReset =>
    cases runs
    exact inv.of_sameBlock (s.sameBlock_withRst false) fun held => absurd held Bool.false_ne_true

theorem begin : s.begin.Inv := by
  cases held : s.rst with
  | true =>
    rw [s.begin_of_rst held]
    exact State.inv_applyReset _
  | false => exact inv.of_sameBlock (State.sameBlock_begin held) fun high => s.begin_rst ▸ high

end

end State.Inv

/-- Settles O14: a step begins by a turn or a reset, which keep the invariant, as the agents' moves do. -/
theorem invariantPreserved : Obligations.InvariantPreserved := by
  intro s t inv stepped
  rcases step_cases s with ⟨-, h⟩ | ⟨-, -, h⟩ | ⟨-, op, rest, -, h⟩ <;> rw [h] at stepped
  · exact inv.begin.codecMove stepped
  · cases stepped
    exact inv.begin
  · exact (inv.begin.of_sameBlock (s.begin.sameBlock_withHost rest) id).hostOp stepped

end Sys2Proof.Machine
end

section
/-! Every instruction and every step completes, and what an instruction records (10_state R24, 60_exceptions R176): the first
undefined byte that it reads, if no earlier read has been recorded (log 1). -/

namespace Sys2Proof.Machine

/-! The record of undefined reads. -/

/-- The undefined byte that an instruction reads: RDBUF's own byte, or the first of a command's operand, where the checks
before the operand read pass. -/
def undefinedOperand (i : Instr) (s : State) : Option (Fin 16) :=
  match i with
  | .rdbuf k => if s.status.busy = true ∨ s.byteDef k = true then none else some k
  | .parity len => if len ≤ 16 then s.firstUndefined len else none
  | .encode len => if s.cfg.valid = true ∧ len = s.cfg.len then s.firstUndefined len else none
  | .decode len => if s.cfg.valid = true ∧ len = s.cfg.len then s.firstUndefined len else none
  | _ => none

/-- `t` comes from `s` by an operation that read the undefined byte `k`, or none. -/
structure State.Records (s : State) (k : Option (Fin 16)) (t : State) : Prop where
  bufDraw : t.bufDraw = s.bufDraw
  record : t.undefinedRead = (s.undefinedRead <|> k)

namespace State.Records

section
variable {s t : State}

theorem nothing (bufDraw : t.bufDraw = s.bufDraw) (record : t.undefinedRead = s.undefinedRead) : s.Records none t :=
  ⟨bufDraw, record.trans (congrArg State.undefinedRead s.noteRead_none).symm⟩

theorem hostWrite {effect : State} (written : s.Records none effect) : s.Records none (s.hostWrite effect) := by
  rcases s.hostWrite_cases effect with ⟨-, h⟩ | ⟨-, -, h⟩ | ⟨-, -, h⟩ <;> rw [h]
  · exact nothing rfl rfl
  · exact nothing rfl rfl
  · exact written

theorem respondIdle (s : State) (v : Word) : s.Records none (s.respondIdle v) := by
  rcases s.respondIdle_cases v with ⟨-, h⟩ | ⟨-, h⟩ <;> rw [h] <;> exact nothing rfl rfl

theorem encodeValue (s : State) (k : Option (Fin 16)) (l : Nat) (v : Wide) :
    s.Records k ((s.noteRead k).encodeValue l v) := by
  rcases (s.noteRead k).encodeValue_cases l v with ⟨-, -, h⟩ | ⟨-, h⟩ <;> rw [h]
  · exact ⟨rfl, rfl⟩
  · exact ⟨by simp, by simp⟩

theorem decodeValue (s : State) (k : Option (Fin 16)) (l : Nat) (v : Wide) :
    s.Records k ((s.noteRead k).decodeValue l v) := by
  rcases (s.noteRead k).decodeValue_cases l v with ⟨-, h⟩ | ⟨-, -, h⟩ | ⟨-, -, h⟩ <;> rw [h]
  · exact ⟨by simp, by simp⟩
  · exact ⟨by simp, by simp⟩
  · exact ⟨rfl, rfl⟩

end

end State.Records

/-- Every instruction answers a next state, in which it has recorded the undefined byte that it read. -/
theorem exec_records (i : Instr) (s : State) : ∃ t, exec i s = .next t ∧ s.Records (undefinedOperand i s) t := by
  cases i with
  | configure n na =>
    refine ⟨_, rfl, ?_⟩
    rcases s.configure_cases n na with ⟨-, h⟩ | ⟨-, -, h⟩ | ⟨syn, -, -, h⟩ <;> rw [h] <;> exact .nothing rfl rfl
  | encode len =>
    rcases execEncode_cases len s with ⟨unset, h⟩ | ⟨valid, wrong, h⟩ | ⟨valid, rfl, h⟩ <;> refine ⟨_, h, ?_⟩
    · simpa [undefinedOperand, unset] using .nothing rfl rfl
    · simpa [undefinedOperand, wrong] using .nothing rfl rfl
    · simpa [undefinedOperand, valid] using State.Records.encodeValue s _ _ _
  | decode len =>
    rcases execDecode_cases len s with ⟨unset, h⟩ | ⟨valid, wrong, h⟩ | ⟨valid, rfl, h⟩ <;> refine ⟨_, h, ?_⟩
    · simpa [undefinedOperand, unset] using .nothing rfl rfl
    · simpa [undefinedOperand, wrong] using .nothing rfl rfl
    · simpa [undefinedOperand, valid] using State.Records.decodeValue s _ _ _
  | parity len =>
    rcases execParity_cases len s with ⟨long, h⟩ | ⟨short, h⟩ <;> refine ⟨_, h, ?_⟩
    · simpa [undefinedOperand, Nat.not_le.mpr long] using .nothing rfl rfl
    · simpa [undefinedOperand, short] using ⟨rfl, rfl⟩
  | wrbuf k w => exact ⟨_, rfl, .hostWrite (.nothing rfl rfl)⟩
  | wrcmd w => exact ⟨_, rfl, .hostWrite (.nothing rfl rfl)⟩
  | rdbuf k =>
    rcases execRdbuf_cases k s with ⟨busy, h⟩ | ⟨idle, h⟩ <;> refine ⟨_, h, ?_⟩
    · simpa [undefinedOperand, busy] using .nothing rfl rfl
    · simpa [undefinedOperand, idle] using ⟨rfl, rfl⟩
  | rdstatus => exact ⟨_, rfl, .nothing rfl rfl⟩
  | rdresult => exact ⟨_, rfl, .respondIdle s _⟩
  | rdcfg => exact ⟨_, rfl, .respondIdle s _⟩

/-- The byte that an instruction records is undefined, and it is RDBUF's own or one of a command's operand. -/
theorem undefinedOperand_eq_some {i : Instr} {s : State} {k : Fin 16} (read : undefinedOperand i s = some k) :
    s.byteDef k = false ∧
      (i = .rdbuf k ∨ ∃ len, k.val < len ∧ (i = .encode len ∨ i = .decode len ∨ i = .parity len)) := by
  unfold undefinedOperand at read
  split at read
  next j =>
    split_ifs at read with defined
    cases read
    exact ⟨by simpa using fun h => defined (.inr h), .inl rfl⟩
  next len =>
    split_ifs at read
    obtain ⟨below, undefined⟩ := s.firstUndefined_eq_some read
    exact ⟨undefined, .inr ⟨len, below, .inr (.inr rfl)⟩⟩
  next len =>
    split_ifs at read
    obtain ⟨below, undefined⟩ := s.firstUndefined_eq_some read
    exact ⟨undefined, .inr ⟨len, below, .inl rfl⟩⟩
  next len =>
    split_ifs at read
    obtain ⟨below, undefined⟩ := s.firstUndefined_eq_some read
    exact ⟨undefined, .inr ⟨len, below, .inr (.inl rfl)⟩⟩
  next => cases read

/-- A command whose checks pass reads its whole operand. -/
theorem undefinedOperand_of_command {i : Instr} {s : State} {len : Nat}
    (command : (i = .parity len ∧ len ≤ 16) ∨
      (s.cfg.valid = true ∧ len = s.cfg.len ∧ (i = .encode len ∨ i = .decode len))) :
    undefinedOperand i s = s.firstUndefined len := by
  rcases command with ⟨rfl, short⟩ | ⟨valid, length, rfl | rfl⟩
  · exact if_pos short
  · exact if_pos ⟨valid, length⟩
  · exact if_pos ⟨valid, length⟩

/-! The moves and the step complete. -/

theorem exec_completes (i : Instr) (s : State) : ∃ t, exec i s = .next t := by
  obtain ⟨t, runs, -⟩ := exec_records i s
  exact ⟨t, runs⟩

theorem codecMove_completes (s : State) : ∃ t, codecMove s = .next t := by
  rcases codecMove_cases s with ⟨-, h⟩ | ⟨-, i, -, h⟩ | ⟨-, -, -, h⟩
  · exact ⟨_, h⟩
  · rw [h]
    exact exec_completes i s
  · exact ⟨_, h⟩

theorem transact_completes (w : BitVec 38) (s : State) : ∃ t, transact w s = .next t := by
  rcases transact_cases w s with ⟨-, h⟩ | ⟨-, i, -, h⟩ | ⟨-, -, h⟩
  · exact ⟨_, h⟩
  · rw [h]
    exact exec_completes i s
  · exact ⟨_, h⟩

theorem poll_of_transact {s t : State} (runs : transact rdstatusWord s = .next t) : poll s = .next t.afterPoll := by
  simp [poll, runs]

theorem hostOp_completes (op : HostOp) (s : State) : ∃ t, hostOp op s = .next t := by
  cases op with
  | tx w => exact transact_completes w s
  | wait =>
    obtain ⟨t, runs⟩ := transact_completes rdstatusWord s
    exact ⟨_, poll_of_transact runs⟩
  | assertReset => exact ⟨_, rfl⟩
  | releaseReset => exact ⟨_, rfl⟩

theorem step_completes (s : State) : ∃ t, step s = .next t := by
  rcases step_cases s with ⟨-, h⟩ | ⟨-, -, h⟩ | ⟨-, op, rest, -, h⟩ <;> rw [h]
  · exact codecMove_completes s.begin
  · exact ⟨_, rfl⟩
  · exact hostOp_completes op _

/-- Settles O55: an instruction records the undefined byte that it read, in a run where none is recorded. -/
theorem everyInstructionCompletes : Obligations.EveryInstructionCompletes := by
  refine ⟨fun i s => ?_, step_completes⟩
  obtain ⟨t, runs, -, record⟩ := exec_records i s
  refine ⟨t, runs, ?_⟩
  cases earlier : s.undefinedRead with
  | some j => exact .inl (by simp [record, earlier])
  | none =>
    cases read : undefinedOperand i s with
    | none => exact .inl (by simp [record, earlier, read])
    | some k => exact .inr ⟨k, rfl, by simp [record, earlier, read], undefinedOperand_eq_some read⟩

/-- Settles O10: the flags by the buffer's laws; the record by what an instruction reads, which a command whose checks pass
takes from its operand. -/
theorem undefinedByteReads : Obligations.UndefinedByteReads := by
  intro s
  refine ⟨fun i => ⟨?_, ?_⟩, fun i w working idle => ?_, fun l v i below => ?_, fun i => s.byte_of_undefined,
    fun i t runs => ?_, fun i idle clear => ?_, fun i len command clear => ?_⟩
  · obtain ⟨-, -, -, -, -, undefined⟩ := State.reset_atReset
    exact undefined i
  · obtain ⟨-, -, -, -, -, undefined⟩ := s.applyReset_atReset
    exact undefined i
  · exact ⟨_, exec_wrbuf_of_idle i w working idle, s.byteDef_setByte_same i _⟩
  · rw [s.byteDef_bufWrite, if_pos below]
  · obtain ⟨u, runs', bufDraw, record⟩ := exec_records i s
    cases runs.symm.trans runs'
    refine ⟨bufDraw, fun noted => ?_⟩
    obtain ⟨k, hk⟩ := Option.ne_none_iff_exists'.mp noted
    simp [record, hk]
  · exact ⟨_, exec_rdbuf_of_idle i idle, rfl, by simp [clear]⟩
  · obtain ⟨t, runs, -, record⟩ := exec_records i s
    rw [undefinedOperand_of_command command, clear] at record
    refine ⟨fun defined => ⟨t, runs, ?_⟩, fun notDefined => ?_⟩
    · rw [record, (s.firstUndefined_eq_none len).mpr defined]
      rfl
    · obtain ⟨k, first⟩ := Option.ne_none_iff_exists'.mp (mt (s.firstUndefined_eq_none len).mp notDefined)
      exact ⟨t, k, runs, by rw [record, first]; rfl, s.firstUndefined_eq_some first⟩

end Sys2Proof.Machine
end

section
/-! Completion (44_host_interface R157): a command that has run has ended, and from a busy block the codec unit's move comes
within the order of the agents (log 6). -/

namespace Sys2Proof.Machine

/-! The completion step. -/

/-- An instruction that a command word decodes to ends the pending command: it is one of the four commands. -/
theorem exec_of_decodeCommand_ends {w : Word} {i : Instr} {s t : State} (decoded : Sys2Proof.decodeCommand w = .ok i)
    (runs : exec i s = .next t) : t.status.busy = false ∧ t.pend = 0#32 := by
  unfold Sys2Proof.decodeCommand at decoded
  split_ifs at decoded <;> cases decoded
  · cases runs
    rcases s.configure_cases (fieldN w) (fieldNA w) with ⟨-, h⟩ | ⟨-, -, h⟩ | ⟨syn, -, -, h⟩ <;> rw [h] <;>
      exact ⟨rfl, rfl⟩
  · rcases execEncode_cases (fieldLen w) s with ⟨-, h⟩ | ⟨-, -, h⟩ | ⟨-, -, h⟩ <;> cases h.symm.trans runs
    · exact ⟨rfl, rfl⟩
    · exact ⟨rfl, rfl⟩
    · rcases (s.readOperand s.cfg.len).encodeValue_cases s.cfg.len (s.bufRead s.cfg.len) with ⟨-, -, h⟩ | ⟨-, h⟩ <;>
        rw [h] <;> exact ⟨rfl, rfl⟩
  · rcases execDecode_cases (fieldLen w) s with ⟨-, h⟩ | ⟨-, -, h⟩ | ⟨-, -, h⟩ <;> cases h.symm.trans runs
    · exact ⟨rfl, rfl⟩
    · exact ⟨rfl, rfl⟩
    · rcases (s.readOperand s.cfg.len).decodeValue_cases s.cfg.len (s.bufRead s.cfg.len) with
        ⟨-, h⟩ | ⟨-, -, h⟩ | ⟨-, -, h⟩ <;> rw [h] <;> exact ⟨rfl, rfl⟩
  · rcases execParity_cases (fieldLen w) s with ⟨-, h⟩ | ⟨-, h⟩ <;> cases h.symm.trans runs <;> exact ⟨rfl, rfl⟩

/-- The completion step of a busy block ends its command. -/
theorem codecMove_ends {s t : State} (busy : s.status.busy = true) (runs : codecMove s = .next t) :
    t.status.busy = false ∧ t.pend = 0#32 := by
  rcases codecMove_cases s with ⟨idle, -⟩ | ⟨-, i, decoded, h⟩ | ⟨-, -, -, h⟩
  · exact absurd (busy.symm.trans idle) (by decide)
  · exact exec_of_decodeCommand_ends decoded (h.symm.trans runs)
  · cases h.symm.trans runs
    exact ⟨rfl, rfl⟩

/-- After the codec unit's move the block is idle. -/
theorem idle_of_codecMove {s t : State} (runs : codecMove s = .next t) : t.status.busy = false := by
  cases before : s.status.busy with
  | true =>
    obtain ⟨idle, -⟩ := codecMove_ends before runs
    exact idle
  | false =>
    cases (codecMove_of_idle before).symm.trans runs
    exact before

theorem codecMove_of_error {s : State} {x : DecodeError} (busy : s.status.busy = true)
    (illegal : Sys2Proof.decodeCommand s.pend = .error x) : codecMove s = .next (s.raise .command .illegalCommand) := by
  simp [codecMove, busy, illegal]

/-- Settles O49: the three cases of the completion step; each command's paths end in a return or in a raised fault. -/
theorem completionStep : Obligations.CompletionStep := by
  intro s
  refine ⟨codecMove_of_idle, fun busy i decoded => codecMove_of_command busy decoded, fun busy x illegal => ?_,
    fun busy => ?_⟩
  · exact ⟨_, codecMove_of_error busy illegal, s.commandFaulted_raise .illegalCommand,
      s.sameInstance_raise .command .illegalCommand⟩
  · obtain ⟨t, runs⟩ := codecMove_completes s
    exact ⟨t, runs, codecMove_ends busy runs⟩

/-! Each step uses one turn. -/

theorem codecMove_outside {s t : State} (runs : codecMove s = .next t) : s.SameOutside t := by
  rcases codecMove_cases s with ⟨-, h⟩ | ⟨-, i, -, h⟩ | ⟨-, -, -, h⟩
  · cases h.symm.trans runs
    exact .refl s
  · exact exec_outside (h.symm.trans runs)
  · cases h.symm.trans runs
    exact ⟨rfl, rfl, rfl⟩

theorem hostOp_turns {op : HostOp} {s t : State} (runs : hostOp op s = .next t) : t.turns = s.turns := by
  cases op with
  | tx w =>
    obtain ⟨-, -, turns⟩ := transact_outside runs
    exact turns
  | wait =>
    obtain ⟨u, polled⟩ := transact_completes rdstatusWord s
    obtain ⟨-, -, turns⟩ := transact_outside polled
    cases (poll_of_transact polled).symm.trans runs
    exact u.afterPoll_turns.trans turns
  | assertReset => cases runs; rfl
  | releaseReset => cases runs; rfl

theorem step_turns {s t : State} (stepped : step s = .next t) : t.turns = s.turns.tail := by
  rcases step_cases s with ⟨-, h⟩ | ⟨-, -, h⟩ | ⟨-, op, rest, -, h⟩ <;> rw [h] at stepped
  · obtain ⟨-, -, turns⟩ := codecMove_outside stepped
    exact turns.trans s.begin_turns
  · cases stepped
    exact s.begin_turns
  · exact (hostOp_turns stepped).trans s.begin_turns

/-! A run of a busy block. -/

/-- Where the order has ended, the codec unit of a busy block moves (log 6). -/
theorem idle_of_step_of_turns_nil {s t : State} (ended : s.turns = []) (busy : s.status.busy = true)
    (stepped : step s = .next t) : t.status.busy = false := by
  have mover : s.mover = .codec := by simp [State.mover, ended, busy]
  have moved : step s = codecMove s.begin := by simp [step, mover]
  exact idle_of_codecMove (moved.symm.trans stepped)

theorem run_succ_of_step {s t : State} (stepped : step s = .next t) (k : Nat) :
    Host.Core.run Sys2Proof.core (k + 1) s = Host.Core.run Sys2Proof.core k t := by
  have stepped' : Sys2Proof.core.step s = .next t := stepped
  simp only [Host.Core.run, stepped']

/-- Settles O50: by induction on the order of the agents, each of whose turns a step uses. -/
theorem completionEventually : Obligations.CompletionEventually := by
  intro s busy
  induction order : s.turns generalizing s with
  | nil =>
    obtain ⟨t, stepped⟩ := step_completes s
    exact ⟨1, t, Nat.le_refl 1, run_succ_of_step stepped 0, idle_of_step_of_turns_nil order busy stepped⟩
  | cons a rest ih =>
    obtain ⟨t, stepped⟩ := step_completes s
    have remaining : t.turns = rest := by rw [step_turns stepped, order, List.tail_cons]
    cases pending : t.status.busy with
    | false => exact ⟨1, t, by omega, run_succ_of_step stepped 0, pending⟩
    | true =>
      obtain ⟨k, u, within, ran, idle⟩ := ih t pending remaining
      exact ⟨k + 1, u, Nat.succ_le_succ within, (run_succ_of_step stepped k).trans ran, idle⟩

end Sys2Proof.Machine
end

section
/-! Reset (70_reset R190): the block while `rst = 1`, the host's operations on `rst`, and what clears FAULT. -/

namespace Sys2Proof.Machine

/-- The host's next operation runs in the state that the step begins with, its list shortened by it. -/
theorem step_of_hostNext {s : State} {op : HostOp} {rest : List HostOp} (next : s.HostNext op rest) :
    step s = hostOp op { s.begin with host := rest } := by
  obtain ⟨mover, queued⟩ := next
  simp [step, mover, hostMove, queued]

/-- Asserting `rst` leaves the reset state, with `rst` high. -/
theorem hostOp_assertReset (s : State) :
    ∃ t, hostOp .assertReset s = .next t ∧ t.AtReset ∧ t.rst = true ∧ t.host = s.host ∧ t.turns = s.turns :=
  ⟨_, rfl, State.applyReset_atReset { s with rst := true }, rfl, rfl, rfl⟩

/-! The block while `rst = 1`. -/

theorem State.begin_atReset {s : State} (held : s.rst = true) : s.begin.AtReset := by
  rw [s.begin_of_rst held]
  exact State.applyReset_atReset _

section
variable {s : State} (held : s.rst = true)
include held

theorem transact_of_held (w : BitVec 38) : transact w s = .next (s.ignoredInReset !fieldWE w) := if_pos held

theorem hostOp_atReset_of_held {op : HostOp} {t : State} (reset : s.AtReset) (runs : hostOp op s = .next t) :
    t.AtReset := by
  cases op with
  | tx w =>
    cases (transact_of_held held w).symm.trans runs
    exact reset.of_sameBlock (s.sameBlock_ignoredInReset _)
  | wait =>
    cases (poll_of_transact (transact_of_held held rdstatusWord)).symm.trans runs
    exact reset.of_sameBlock ((s.sameBlock_ignoredInReset _).trans (State.sameBlock_afterPoll _))
  | assertReset =>
    obtain ⟨u, runs', reset', -⟩ := hostOp_assertReset s
    cases runs.symm.trans runs'
    exact reset'
  | releaseReset =>
    cases runs
    exact reset.of_sameBlock (s.sameBlock_withRst false)

/-- While `rst = 1` every step leaves the reset state. -/
theorem step_atReset_of_held {t : State} (stepped : step s = .next t) : t.AtReset := by
  have reset : s.begin.AtReset := State.begin_atReset held
  rcases step_cases s with ⟨-, h⟩ | ⟨-, -, h⟩ | ⟨-, op, rest, -, h⟩ <;> rw [h] at stepped
  · cases (codecMove_of_idle reset.idle).symm.trans stepped
    exact reset
  · cases stepped
    exact reset
  · exact hostOp_atReset_of_held (s := { s.begin with host := rest }) (s.begin_rst.trans held)
      (reset.of_sameBlock (s.begin.sameBlock_withHost rest)) stepped

end

/-! FAULT outlives every step but a reset. -/

/-- No instruction clears FAULT: it keeps it or raises a fault. -/
theorem exec_keeps_fault {i : Instr} {s t : State} (faulted : s.status.fault = true) (runs : exec i s = .next t) :
    t.status.fault = true := by
  rcases exec_faults_or_keeps runs with kept | ⟨c, ⟨⟨latched, -⟩, -⟩ | ⟨⟨latched, -⟩, -⟩⟩
  · exact kept.trans faulted
  · exact latched
  · exact latched

theorem codecMove_keeps_fault {s t : State} (faulted : s.status.fault = true) (runs : codecMove s = .next t) :
    t.status.fault = true := by
  rcases codecMove_cases s with ⟨-, h⟩ | ⟨-, i, -, h⟩ | ⟨-, -, -, h⟩
  · cases h.symm.trans runs
    exact faulted
  · exact exec_keeps_fault faulted (h.symm.trans runs)
  · cases h.symm.trans runs
    rfl

/-- Outside reset a step keeps FAULT, unless it asserts `rst`; a pending command does not matter. -/
theorem step_keeps_fault {s t : State} (faulted : s.status.fault = true) (running : s.rst = false)
    (stepped : step s = .next t) : (∃ rest, s.HostNext .assertReset rest) ∨ t.status.fault = true := by
  have begun : s.begin.status.fault = true := by
    obtain ⟨-, -, status, -, -⟩ := State.sameBlock_begin running
    rw [status, faulted]
  rcases step_cases s with ⟨-, h⟩ | ⟨-, -, h⟩ | ⟨mover, op, rest, queued, h⟩ <;> rw [h] at stepped
  · exact .inr (codecMove_keeps_fault begun stepped)
  · cases stepped
    exact .inr begun
  · by_cases asserts : op = .assertReset
    · subst asserts
      exact .inl ⟨rest, mover, s.begin_host.symm.trans queued⟩
    · obtain ⟨-, -, status, -, -⟩ := hostOp_sameBlock_of_faulted (s := { s.begin with host := rest }) begun asserts stepped
      exact .inr (status ▸ begun)

/-- Settles O12: while `rst = 1` a step begins with the reset state, which the moves leave; outside reset FAULT stays. -/
theorem resetFromAnyState : Obligations.ResetFromAnyState := by
  refine ⟨fun s rest next => ?_, fun s held => ?_, fun s w rest held next => ?_, fun s t faulted stepped cleared => ?_⟩
  · obtain ⟨t, runs, reset, high, -⟩ := hostOp_assertReset { s.begin with host := rest }
    exact ⟨t, (step_of_hostNext next).trans runs, reset, high⟩
  · obtain ⟨t, stepped⟩ := step_completes s
    exact ⟨t, stepped, step_atReset_of_held held stepped⟩
  · have high : s.begin.rst = true := s.begin_rst.trans held
    have stepped := (step_of_hostNext next).trans (transact_of_held (s := { s.begin with host := rest }) high w)
    obtain ⟨rst, host, -⟩ := State.sameOutside_ignoredInReset { s.begin with host := rest } (!fieldWE w)
    refine ⟨_, stepped, step_atReset_of_held held stepped, rst.trans high, host, ?_⟩
    change (State.ignoredInReset _ (!fieldWE w)).rspRdata = if fieldWE w then none else some 0#32
    cases fieldWE w with
    | true => exact s.begin_rspRdata
    | false => rfl
  · cases held : s.rst with
    | true => exact .inl rfl
    | false =>
      refine .inr ((step_keeps_fault faulted held stepped).resolve_right fun kept => ?_)
      exact absurd (kept.symm.trans cleared) (by decide)

end Sys2Proof.Machine
end

section
/-! The pseudo-instructions (30_encoding R78): LOADBUF as lines of WRBUF, WAIT as polls of STATUS, RESET as two operations. -/

namespace Sys2Proof.Machine

/-- The operations of LOADBUF from byte `i` on: WRBUF of each byte at its index. -/
theorem loadFrom_eq {bs : List Nat} {i : Nat} (room : i + bs.length ≤ 16) (bytes : ∀ b ∈ bs, b ≤ 255) :
    loadFrom i bs =
      (bs.zipIdx i).map fun p => .tx (BitVec.ofNat 38 (0x2000000000 + p.2 * 2 ^ 32 + p.1)) := by
  induction bs generalizing i with
  | nil => rfl
  | cons b bs ih =>
    obtain ⟨byte, bytes'⟩ := List.forall_mem_cons.mp bytes
    rw [List.length_cons] at room
    rw [loadFrom, ih (by omega) bytes', List.zipIdx_cons, List.map_cons, present_eq true (by omega) (by omega),
      Bool.toNat_true, Nat.one_mul, ← Nat.add_assoc]

theorem assembleLine_loadbuf {bs : List Nat} (nonempty : 1 ≤ bs.length) (room : bs.length ≤ 16) (bytes : ∀ b ∈ bs, b ≤ 255) :
    assembleLine (.loadbuf bs) = some (loadFrom 0 bs) :=
  if_pos ⟨nonempty, room, by simpa using bytes⟩

/-- The poll of WAIT is an RDSTATUS outside reset. -/
theorem transact_rdstatusWord {s : State} (running : s.rst = false) :
    transact rdstatusWord s = .next (s.respond s.status.word) := by
  have decoded : decodeTransaction rdstatusWord = .ok .rdstatus := by decide
  simp only [transact, running, decoded]
  rfl

/-- Settles O8: LOADBUF by its list of bytes; a poll answers STATUS, whose bit 0 is BUSY; RESET by its two operations. -/
theorem pseudoInstructions : Obligations.PseudoInstructions := by
  refine ⟨fun bs nonempty room bytes => ?_, rfl, fun s running => ?_, rfl, hostOp_assertReset, fun s => ?_,
    fun s rest next => ?_⟩
  · rw [assembleLine_loadbuf nonempty room bytes, loadFrom_eq (by omega) bytes]
  · obtain ⟨busy, -⟩ := s.status.word_fields
    refine ⟨_, poll_of_transact (transact_rdstatusWord running), State.afterPoll_rspRdata _,
      (s.sameBlock_respond _).trans (State.sameBlock_afterPoll _), ?_⟩
    rw [State.afterPoll_host (s.respond_rspRdata _), busy, State.respond_host]
  · exact ⟨_, rfl, rfl, s.sameBlock_withRst false, rfl, rfl, rfl⟩
  · have released : State.SameBlock s.begin { s.begin with host := rest, rst := false } :=
      (s.begin.sameBlock_withHost rest).trans (State.sameBlock_withRst _ false)
    exact ⟨_, step_of_hostNext next, rfl, rfl, fun held => (State.begin_atReset held).of_sameBlock released,
      fun running => (State.sameBlock_begin running).trans released⟩

end Sys2Proof.Machine
end

section
/-! Repeated reads (20_memory R57, 44_host_interface R158), and the reserved bits of the registers (10_state R26 to R28). -/

namespace Sys2Proof.Machine

/-- An undefined byte is recorded once. -/
theorem State.noteRead_noteRead (s : State) (k : Option (Fin 16)) : (s.noteRead k).noteRead k = s.noteRead k := by
  have once : ((s.undefinedRead <|> k) <|> k) = (s.undefinedRead <|> k) := by
    cases s.undefinedRead <;> cases k <;> rfl
  simp only [State.noteRead, once]

/-- A read of an idle block answers the same again: it has changed the read-data port and the record alone. -/
theorem exec_read_again {i : Instr} {s t : State} (read : i.IsRead) (idle : s.status.busy = false)
    (runs : exec i s = .next t) : exec i t = .next t := by
  rcases read with rfl | rfl | rfl | ⟨k, rfl⟩
  · cases runs
    rfl
  · cases (exec_rdresult_of_idle idle).symm.trans runs
    exact exec_rdresult_of_idle (s := s.respond s.result.word) idle
  · cases (exec_rdcfg_of_idle idle).symm.trans runs
    exact exec_rdcfg_of_idle (s := s.respond s.cfg.word) idle
  · cases (exec_rdbuf_of_idle k idle).symm.trans runs
    have once : (s.readByte k).readByte k = s.readByte k := s.noteRead_noteRead _
    have again : exec (.rdbuf k) ((s.readByte k).respond ((s.byte k).setWidth 32)) =
        .next (((s.readByte k).readByte k).respond ((s.byte k).setWidth 32)) := exec_rdbuf_of_idle k idle
    rwa [once] at again

/-- Settles O45: a read writes nothing of the block, and repeats. -/
theorem readsAreIdempotent : Obligations.ReadsAreIdempotent := by
  intro i s read idle
  obtain ⟨t, runs⟩ := exec_completes i s
  exact ⟨t, runs, exec_read_sameBlock read runs, exec_read_again read idle runs⟩

/-- Settles O58: a read of a busy block draws, and leaves it busy. -/
theorem busyReadsDrawApart : Obligations.BusyReadsDrawApart := by
  intro i s read busy
  exact ⟨_, _, exec_read_of_busy read busy, exec_read_of_busy (s := s.respondUndefined) read busy, rfl, rfl⟩

/-- The reserved bits of STATUS (R26) lie outside its fields. -/
theorem Status.word_reserved (x : Status) : x.word.extractLsb' 2 2 = 0#2 ∧ x.word.extractLsb' 8 24 = 0#24 := by
  simp (disch := decide) [Status.word, placeBit, BitVec.extractLsb'_or, extractLsb'_place_apart]

/-- The reserved bits of CFG (R28) lie outside its fields. -/
theorem Cfg.word_reserved (x : Cfg) : x.word.extractLsb' 3 5 = 0#5 ∧ x.word.getLsbD 15 = false ∧
    x.word.extractLsb' 24 8 = 0#8 := by
  simp (disch := decide) [Cfg.word, placeBit, getLsbD_place_apart, BitVec.extractLsb'_or, extractLsb'_place_apart,
    -BitVec.getLsbD_eq_getElem]

/-- Settles O9: the layouts of the three registers, and the reserved bits beside their fields. -/
theorem registerWordLayouts : Obligations.RegisterWordLayouts := by
  refine ⟨fun x => ?_, fun x => x.word_fields, fun x => ?_⟩
  · obtain ⟨busy, fault, cause, -⟩ := x.word_fields
    exact ⟨busy, fault, cause, x.word_reserved⟩
  · obtain ⟨valid, wm, noassert, n, cs, m, -⟩ := x.word_fields
    obtain ⟨low, middle, high⟩ := x.word_reserved
    exact ⟨valid, wm, noassert, low, n, middle, cs, m, high⟩

end Sys2Proof.Machine
end

section
/-! A step runs the instruction that PEND or the transaction decodes to (44_host_interface R157, 30_encoding R73, R76). -/

namespace Sys2Proof.Machine

theorem step_of_codec {s : State} (mover : s.mover = .codec) : step s = codecMove s.begin := by
  simp [step, mover]

theorem step_of_host_nil {s : State} (mover : s.mover = .host) (empty : s.host = []) : step s = .next s.begin := by
  simp [step, mover, hostMove, empty]

theorem transact_of_instr {w : BitVec 38} {i : Instr} {s : State} (running : s.rst = false)
    (decoded : decodeTransaction w = .ok i) : transact w s = exec i s := by
  simp [transact, running, decoded]

/-- An illegal transaction leaves RESULT and the buffer, faulted or not. -/
theorem State.illegalAccess_result_buffer (s : State) (read : Bool) :
    (s.illegalAccess read).result = s.result ∧ s.SameBuffer (s.illegalAccess read) := by
  cases faulted : s.status.fault with
  | true =>
    rw [State.illegalAccess_of_faulted faulted]
    obtain ⟨buffer, -, -, result, -⟩ := s.sameBlock_ignoredInReset read
    exact ⟨result, buffer⟩
  | false =>
    obtain ⟨-, result, buffer, -, -⟩ := State.hostFaulted_illegalAccess faulted read
    exact ⟨result, buffer⟩

/-- Settles O56: outside reset a step begins with the turn used and the read data dropped, and the mover's agent moves. -/
theorem stepRunsTheDecodedInstruction : Obligations.StepRunsTheDecodedInstruction := by
  intro s running r
  have begun : s.begin = r := s.begin_of_not_rst running
  have codec : s.mover = .codec → step s = codecMove r := fun mover => begun ▸ step_of_codec mover
  have host : ∀ op rest, s.HostNext op rest → step s = hostOp op { r with host := rest } :=
    fun op rest next => begun ▸ step_of_hostNext next
  refine ⟨codec, host, fun w rest => host (.tx w) rest, fun i mover busy decoded => ?_, fun i w rest next decoded => ?_,
    fun mover busy illegal => ?_, fun w rest read next illegal => ?_, fun mover idle => ?_, fun mover empty => ?_⟩
  · exact (codec mover).trans (codecMove_of_command (s := r) busy decoded)
  · exact (host _ rest next).trans (transact_of_instr (s := { r with host := rest }) running decoded)
  · exact ⟨_, (codec mover).trans (codecMove_of_illegal (s := r) busy illegal), r.faultLatched_raise .command .illegalCommand,
      rfl, fun _ => ⟨rfl, rfl⟩, r.sameInstance_raise .command .illegalCommand, rfl, rfl⟩
  · let u : State := { r with host := rest }
    obtain ⟨result, buffer⟩ := u.illegalAccess_result_buffer read
    obtain ⟨-, host', -⟩ := u.sameOutside_illegalAccess read
    refine ⟨_, (host _ rest next).trans (transact_of_illegal (s := u) running illegal), fun working => ?_,
      fun faulted => ?_, result, buffer, u.sameInstance_illegalAccess read, host', u.illegalAccess_rspRdata read⟩
    · obtain ⟨latched, -⟩ := State.hostFaulted_illegalAccess (s := u) working read
      exact latched
    · rw [State.illegalAccess_of_faulted (s := u) faulted]
      obtain ⟨-, -, status, -, pend⟩ := u.sameBlock_ignoredInReset read
      exact ⟨status, pend⟩
  · exact (codec mover).trans (codecMove_of_idle (s := r) idle)
  · exact begun ▸ step_of_host_nil mover empty

/-! The words of opcode-table rows (log 7, log 15). -/

theorem eq_ok_of_toOption {x : Except DecodeError Instr} {i : Instr} (decoded : x.toOption = some i) : x = .ok i := by
  cases x with
  | ok j => cases decoded; rfl
  | error e => cases decoded

/-- A row of at most 32 bits is a command word. -/
theorem decodeTableWord_command {nbits w : Nat} {i : Instr} (short : nbits ≤ 32)
    (decoded : decodeTableWord nbits w = some i) : Sys2Proof.decodeCommand (BitVec.ofNat 32 w) = .ok i := by
  rw [decodeTableWord, if_pos short] at decoded
  split_ifs at decoded
  exact eq_ok_of_toOption decoded

/-- A longer row is a transaction. -/
theorem decodeTableWord_transaction {nbits w : Nat} {i : Instr} (long : ¬nbits ≤ 32)
    (decoded : decodeTableWord nbits w = some i) : decodeTransaction (BitVec.ofNat 38 w) = .ok i := by
  rw [decodeTableWord, if_neg long] at decoded
  split_ifs at decoded
  exact eq_ok_of_toOption decoded

/-- Settles O57: the completion step runs a command word put in PEND, and the host presents a transaction put at the head of
its list. -/
theorem fetchWordIsRun : Obligations.FetchWordIsRun := by
  intro s nbits w i decoded
  obtain ⟨-, -, -, command, transaction, -⟩ := stepRunsTheDecodedInstruction (s.withFetchWord nbits w) (by
    unfold State.withFetchWord
    split <;> rfl)
  by_cases short : nbits ≤ 32
  · simp only [State.withFetchWord, if_pos short] at command ⊢
    exact command i rfl rfl (decodeTableWord_command short decoded)
  · simp only [State.withFetchWord, if_neg short] at transaction ⊢
    exact transaction i _ s.host ⟨rfl, rfl⟩ (decodeTableWord_transaction short decoded)

end Sys2Proof.Machine
end
